-- ==== Sys2Proof/Word.lean ====
section
/-! DEFINITION. The word and byte types and the plainest arithmetic of the spec (00_scope.md R10, R11). -/

namespace Sys2Proof

/-- A word is 32 bits (R10). -/
abbrev Word := BitVec 32

/-- A byte is 8 bits (R10). -/
abbrev Byte := BitVec 8

/-- `ceil(a / b)` on naturals is `(a + b − 1) div b` (R11). -/
def ceilDiv (a b : Nat) : Nat := (a + b - 1) / b

/-- `roundup(a, m)` is `ceil(a / m) · m` (R11). -/
def roundUp (a m : Nat) : Nat := ceilDiv a m * m

/-- `roundhalfup(a / b)` is `(2·a + b) div (2·b)`, a tie going up (R11). -/
def roundHalfUp (a b : Nat) : Nat := (2 * a + b) / (2 * b)

/-- `trunc32(v)` is `v mod 2^32` (R11). -/
def trunc32 (v : Nat) : Word := BitVec.ofNat 32 v

/-- Byte `r` of a word, bits `[8r+7 : 8r]` (20_memory.md R71). -/
def byteOf (w : Word) (r : Nat) : Byte := BitVec.ofNat 8 (w.toNat >>> (8 * r))

/-- The word whose little-endian bytes are the four given, lowest address first (R71). -/
def wordOfBytes (b0 b1 b2 b3 : Byte) : Word :=
  BitVec.ofNat 32 (b0.toNat + 256 * b1.toNat + 65536 * b2.toNat + 16777216 * b3.toNat)

end Sys2Proof
end

