-- ==== Sys2Proof/Config.lean ====
section
/-! DEFINITION. What one platform fixes (00_scope.md R8, 10_state.md R40 to R47), as records with
no values, and the free values. The spec's reference values are in Machine/Platform.lean. -/

namespace Sys2Proof

/-- PERIPH: register indices and bit masks of the surrounding peripherals (10_state.md R40). -/
structure Periph where
  gpioFselBaseIndex : Nat
  gpioPinsPerReg : Nat
  gpioFselBits : Nat
  cmCtlIndex : Nat
  cmDivIndex : Nat
  cmPasswd : Word
  /-- The lowest bit of CM_PASSWD's field (R44, 93_implementation_defined.md G2; log 21). -/
  cmPasswdLow : Nat
  cmKill : Word
  cmDiviShift : Nat
  cmSrc : Word
  cmEnab : Word
  pwmCtlIndex : Nat
  pwmDmacIndex : Nat
  /-- PWM_RNG_INDEX, one entry per channel (R45). -/
  pwmRngIndex : List Nat
  pwmClrf : Word
  pwmUsef : Word
  pwmMode : Word
  pwmPwen : Word
  /-- PWM_CH_SHIFT, one entry per channel (R45). -/
  pwmChShift : List Nat
  pwmDmacValue : Word
  pwmChannels : Nat
  dmaChStrideWords : Nat
  dmaCsIndex : Nat
  dmaConblkIndex : Nat
  dmaDebugIndex : Nat
  dmaCsActive : Word
  dmaCsEnd : Word
  dmaCsInt : Word
  dmaCsError : Word
  dmaCsPrioMax : Word
  dmaCsWaitWrites : Word
  dmaCsReset : Word
  dmaDebugErrmask : Word
  /-- The five masks of the transfer-info word (30_encoding.md R121). -/
  tiNoWideBursts : Word
  tiWaitResp : Word
  tiDestDreq : Word
  tiPermapPwm : Word
  tiSrcInc : Word
  deriving DecidableEq, Repr

/-- The configuration record (00_scope.md R8). PAGE_ALIGNMENT is PAGE_SIZE (decision D14);
POLL_INTERVAL is not modelled (D19); PERIPH_BASE is an operand of INIT. -/
structure Config where
  maxDivisor : Nat
  baseClockHz : Word
  pageSize : Nat
  descBytes : Nat
  cacheFlags : Word
  uncachedAliasMask : Word
  gpioOffset : Word
  pwmOffset : Word
  cmOffset : Word
  dmaOffset : Word
  dmaChannel : Nat
  pwmFifoOffset : Word
  windowLen : Nat
  mboxReqCode : Word
  periph : Periph
  deriving DecidableEq, Repr

/-- The constraints on the configuration, collected in 70_reset_and_hazards.md R299; the clock word
of 10_state.md R44 must fit below the password's field, so the password has no bit below it. That
the page size is a 32-bit operand word, that the pin registers hold at least one pin and that the
per-channel lists have one entry per channel are read from R8, R42 and R45 (log 21). -/
def Config.valid (c : Config) : Bool :=
  decide (1 ≤ c.maxDivisor) &&
  decide (c.maxDivisor * 2 ^ c.periph.cmDiviShift < 4294967296) &&
  decide (c.maxDivisor * 2 ^ c.periph.cmDiviShift < 2 ^ c.periph.cmPasswdLow) &&
  decide (c.pageSize = 2 ^ c.pageSize.log2) && decide (c.descBytes ≤ c.pageSize) &&
  decide (c.pageSize < 4294967296) &&
  decide (c.descBytes % 4 = 0) && decide (24 ≤ c.descBytes) &&
  decide (c.windowLen % 4 = 0) && decide (1 ≤ c.periph.gpioPinsPerReg) &&
  decide (c.periph.pwmRngIndex.length = c.periph.pwmChannels) &&
  decide (c.periph.pwmChShift.length = c.periph.pwmChannels) &&
  decide (c.periph.cmPasswd.toNat % 2 ^ c.periph.cmPasswdLow = 0)

/-! ## The mailbox -/

/-- An ioctl command code by its parts: which ways the argument goes, type field, number. The
argument is a pointer. -/
structure Ioctl where
  callerWrites : Bool
  callerReads : Bool
  kind : Nat
  number : Nat
  deriving DecidableEq, Repr

/-- MBOX_IOCTL, `_IOWR(100,0,char*)` or its equivalent (00_scope.md R7, 30_encoding.md R112): the one
command code of the mailbox device, carrying the pointer to the message buffer (log 25). -/
def mboxIoctl : Ioctl := { callerWrites := true, callerReads := true, kind := 100, number := 0 }

/-- What one mailbox exchange meets at the firmware (42_mailbox_allocator.md R172): no answer yet
(it may never come, 70_reset_and_hazards.md R291), a failed exchange, or an answer, whose words
overwrite the message word by word. -/
inductive MboxAnswer where
  | pending
  | failed
  | answered (words : List Word)
  deriving DecidableEq, Repr, Inhabited

/-! The free values. Nothing can evaluate them; a claim holds whatever they are (log 4, 8).
The argument is the draw counter of `State.env`. -/

/-- The platform's answer to a WinOpen (20_memory.md R80). -/
opaque Config.freeGrant : Nat → Bool

/-- The word a peripheral register answers with (20_memory.md R81). -/
opaque Config.freeRead : Nat → Word

/-- The firmware's answer to an exchange (20_memory.md R84). -/
opaque Config.freeMbox : Nat → MboxAnswer

/-- Word `i` of an answer whose list of words is too short (20_memory.md R84). -/
opaque Config.freeMboxWord : Nat → Nat → Word

/-- The platform's answer to a MapPhys: refused, or a virtual base (20_memory.md R85). -/
opaque Config.freeMap : Nat → Option Word

/-- Register number `r` left unspecified by a failed CFGPAT (44_session.md R218). -/
opaque Config.freeReg : Nat → Nat → Word

end Sys2Proof
end

