-- ==== Sys2Proof/Machine/Platform.lean ====
section
/-! DEFINITION. The reference configuration REFCFG (95_test_vectors.md section 0) and the values
the rules derive from a configuration. -/

namespace Sys2Proof

/-- The BCM2835 values printed beside rules R42 to R47 and R121, general knowledge of one
platform, never the source's (93_implementation_defined.md G1 to G12; log 3). -/
def Periph.bcm2835 : Periph where
  gpioFselBaseIndex := 0
  gpioPinsPerReg := 10
  gpioFselBits := 3
  cmCtlIndex := 40
  cmDivIndex := 41
  cmPasswd := 0x5A000000
  cmPasswdLow := 24
  cmKill := 0x20
  cmDiviShift := 12
  cmSrc := 6
  cmEnab := 0x10
  pwmCtlIndex := 0
  pwmDmacIndex := 2
  pwmRngIndex := [4, 8]
  pwmClrf := 0x40
  pwmUsef := 0x20
  pwmMode := 0x02
  pwmPwen := 0x01
  pwmChShift := [0, 8]
  pwmDmacValue := 0x80000703
  pwmChannels := 2
  dmaChStrideWords := 64
  dmaCsIndex := 0
  dmaConblkIndex := 1
  dmaDebugIndex := 8
  dmaCsActive := 0x00000001
  dmaCsEnd := 0x00000002
  dmaCsInt := 0x00000004
  dmaCsError := 0x00000100
  dmaCsPrioMax := 0x00FF0000
  dmaCsWaitWrites := 0x10000000
  dmaCsReset := 0x80000000
  dmaDebugErrmask := 0x00000007
  tiNoWideBursts := 0x04000000
  tiWaitResp := 0x00000008
  tiDestDreq := 0x00000040
  tiPermapPwm := 0x00050000
  tiSrcInc := 0x00000100

/-- REFCFG (95_test_vectors.md section 0; log 3). -/
def Config.refcfg : Config where
  maxDivisor := 2048
  baseClockHz := 500000000
  pageSize := 4096
  descBytes := 32
  cacheFlags := 0xC
  uncachedAliasMask := 0xC0000000
  gpioOffset := 0x200000
  pwmOffset := 0x20C000
  cmOffset := 0x101000
  dmaOffset := 0x007000
  dmaChannel := 5
  pwmFifoOffset := 0x18
  windowLen := 4096
  mboxReqCode := 0
  periph := Periph.bcm2835

/-- PAGE_ALIGNMENT is PAGE_SIZE (00_scope.md R8, decision D14). -/
def Config.pageAlignment (c : Config) : Word := trunc32 c.pageSize

/-- TI, the OR of five masks (30_encoding.md R121). -/
def Config.transferInfo (c : Config) : Word :=
  c.periph.tiNoWideBursts ||| c.periph.tiWaitResp ||| c.periph.tiDestDreq |||
    c.periph.tiPermapPwm ||| c.periph.tiSrcInc

/-- FIFO_DEST_ADDR for a peripheral base address (20_memory.md R74). -/
def Config.fifoDestAddr (c : Config) (periphBase : Word) : Word :=
  trunc32 (periphBase.toNat + c.pwmOffset.toNat + c.pwmFifoOffset.toNat)

/-- The function-select register index of a pin (10_state.md R42). -/
def Config.gpioIndex (c : Config) (gpioId : Word) : Nat :=
  c.periph.gpioFselBaseIndex + gpioId.toNat / c.periph.gpioPinsPerReg

/-- The shift of a pin's field in its function-select register (R42). -/
def Config.gpioShift (c : Config) (gpioId : Word) : Nat :=
  gpioId.toNat % c.periph.gpioPinsPerReg * c.periph.gpioFselBits

/-- `m = 2^GPIO_FSEL_BITS − 1` (R42). -/
def Config.gpioMask (c : Config) : Word := trunc32 (2 ^ c.periph.gpioFselBits - 1)

/-- `b = DMA_CHANNEL · DMA_CH_STRIDE_WORDS` (10_state.md R47). -/
def Config.dmaBase (c : Config) : Nat := c.dmaChannel * c.periph.dmaChStrideWords

/-- The index of the channel's control and status register (R47). -/
def Config.dmaCs (c : Config) : Nat := c.dmaBase + c.periph.dmaCsIndex

/-- The index of the channel's control-block-address register (R47). -/
def Config.dmaConblk (c : Config) : Nat := c.dmaBase + c.periph.dmaConblkIndex

/-- The index of the channel's debug register (R47). -/
def Config.dmaDebug (c : Config) : Nat := c.dmaBase + c.periph.dmaDebugIndex

/-- Does register `i` lie inside a window of `len` bytes: `4·i + 4 ≤ len` (20_memory.md R64). -/
def indexFits (len i : Nat) : Bool := decide (4 * i + 4 ≤ len)

/-- Every register index the configuration fixes lies inside its window: the BadConfig check of
44_session.md R214. All entries of PWM_RNG_INDEX count (log 22). -/
def Config.indicesFit (c : Config) : Bool :=
  ([c.periph.cmCtlIndex, c.periph.cmDivIndex, c.periph.pwmCtlIndex, c.periph.pwmDmacIndex,
    c.dmaCs, c.dmaConblk, c.dmaDebug] ++ c.periph.pwmRngIndex).all (indexFits c.windowLen)

end Sys2Proof
end

