-- ==== Sys2Proof/Machine/State.lean ====
section
/-! DEFINITION. The machine's state as plain data, its stops, and the state after reset. -/

namespace Sys2Proof.Machine

/-! ## Errors a command can report (60_exceptions.md) -/

/-- The four register windows (20_memory.md R61). -/
inductive WinName where
  | gpio
  | pwm
  | cm
  | dma
  deriving DecidableEq, Repr

/-- The causes of AllocError (R242). -/
inductive AllocCause where
  | allocZero
  | lockFailed
  | mapFailed
  | mboxFailed
  deriving DecidableEq, Repr

/-- The causes of UsageError (R245). -/
inductive UsageCause where
  | illegalOpcode
  | reservedBits
  | wrongState
  | badOperand
  | outOfBlock
  | badFrame
  | badConfig
  deriving DecidableEq, Repr

/-- The error outcomes of a command (R240): kind, cause and, for HardwareFaultError, the info
word. DeviceError's cause names the window (R241); ConfigError's only cause is NoWidth (R243);
HardwareFaultError's only cause is DmaError (R244). -/
inductive CmdError where
  | device (w : WinName)
  | alloc (c : AllocCause)
  | noWidth
  | dmaError (debug : Word)
  | usage (c : UsageCause)
  deriving DecidableEq, Repr

/-! ## Abstract peripheral actions and the event history -/

/-- The abstract peripheral actions (10_state.md R41 to R47). -/
inductive Action where
  | gpioAlt (gpioId alt : Word)
  | clkStop
  | clkConfig (divisor : Word)
  | clkEnable
  | pwmConfig (channel : Word)
  | pwmDisable (channel : Word)
  | dmaReset
  | dmaClearFlags
  | dmaClearDebug
  | dmaSetCb (address : Word)
  | dmaGo
  | dmaReadCs
  | dmaReadDebug
  deriving DecidableEq, Repr

/-- One entry of the event history (10_state.md R41, 20_memory.md R81; log 7): every interaction
on every interface, in program order (R75). -/
inductive Event where
  | command (frame : List Word)
  | response (words : List Word)
  | winOpen (w : WinName) (phys : Word) (len : Nat) (granted : Bool)
  | winClose (w : WinName)
  | action (a : Action)
  | winRead (w : WinName) (i : Nat) (v : Word)
  | winWrite (w : WinName) (i : Nat) (v : Word)
  | memWrite (addr : Nat) (v : Word)
  | mbox (code : Ioctl) (request : List Word) (answer : Option (List Word))
  | mapPhys (phys len : Word) (virt : Option Word)
  | unmapPhys (virt len : Word)
  | sleep
  | hardReset
  deriving DecidableEq, Repr

/-! ## The parts of the state -/

/-- STATE's four values (10_state.md R22). -/
inductive Phase where
  | uninitialized
  | configured
  | sending
  | shutDown
  deriving DecidableEq, Repr

/-- MEM_STAGE's four values (10_state.md R31). -/
inductive MemStage where
  | none
  | allocated
  | locked
  | mapped
  deriving DecidableEq, Repr

/-- The block's own registers (10_state.md R22 to R31), each under its own name. -/
structure Session where
  state : Phase
  patternValid : Bool
  fault : Bool
  memStage : MemStage
  gpioId : Word
  altFn : Word
  channel : Word
  periphBase : Word
  byteCount : Word
  freqHz : Word
  resetDelayUs : Word
  zeroCode : BitVec 16
  oneCode : BitVec 16
  widthBits : BitVec 5
  divisor : Word
  scale : BitVec 64
  patternBytes : Word
  blockBytes : Word
  memHandle : Word
  memBus : Word
  memVirt : Word
  deriving DecidableEq, Repr

/-- One window record (10_state.md R32). -/
structure Window where
  phys : Word
  len : Nat
  isOpen : Bool
  deriving DecidableEq, Repr

/-- The four window records (R32, 20_memory.md R61). -/
structure Windows where
  gpio : Window
  pwm : Window
  cm : Window
  dma : Window
  deriving DecidableEq, Repr

/-- The mailbox message buffer (20_memory.md R60), and whether it is in the firmware's hands
(42_mailbox_allocator.md R172). -/
structure Mailbox where
  buf : List Word
  waiting : Bool
  deriving DecidableEq, Repr

/-- The command channel: BUSY (10_state.md R36), the last response (30_encoding.md R104), the
frames the host will still send (70_reset_and_hazards.md R303; log 1) and the hardware reset line
(R280; log 15). -/
structure Channel where
  busy : Bool
  response : Option (List Word)
  frames : List (List Word)
  resetLine : Bool
  deriving DecidableEq, Repr

/-- The other agents' answers still to come, first to last, and how many were drawn (log 4):
WinOpen (20_memory.md R80), WinRead (R81), mailbox exchanges (R84), MapPhys (R85). -/
structure Env where
  grants : List Bool
  reads : List Word
  mbox : List MboxAnswer
  maps : List (Option Word)
  drawn : Nat
  deriving DecidableEq, Repr

/-- The command a DmaWait belongs to (43_dma_engine.md R196), with what it needs after it. -/
inductive Poller where
  | wait
  | send (payload : List Byte)
  | shutdown
  deriving DecidableEq, Repr

/-- What CFGPAT has computed before it allocates (44_session.md R217). -/
structure CfgJob where
  byteCount : Word
  freqHz : Word
  resetDelayUs : Word
  zeroCode : BitVec 16
  oneCode : BitVec 16
  widthBits : BitVec 5
  patternBytes : Word
  blockBytes : Word
  deriving DecidableEq, Repr

/-- On whose behalf the MemoryBlock is released: CFGPAT's roll-back with the error it will raise
(42_mailbox_allocator.md R180), or SHUTDOWN with the error noted so far (R181, 44_session.md R222). -/
inductive Releaser where
  | rollBack (e : CmdError)
  | shutdown (noted : Option CmdError)
  deriving DecidableEq, Repr

/-- The position inside the command's micro-sequence at the places where the block waits on
another agent (10_state.md R23); `idle` otherwise. -/
inductive Seq where
  | idle
  | polling (k : Poller)
  | allocating (j : CfgJob)
  | locking (j : CfgJob)
  | unlocking (r : Releaser)
  | freeing (r : Releaser)
  deriving DecidableEq, Repr

/-- The MemoryBlock's bytes by block-virtual address, addresses strictly rising; an unlisted
address holds no value (20_memory.md R70, R86; log 10). -/
abbrev Memory := List Host.Cell

/-- The canonical form: strictly rising addresses. (An unlisted address reads as no value, which
no entry can equal.) -/
abbrev Memory.wf (m : Memory) : Prop := m.Pairwise fun a b => a.1 < b.1

/-- Why the machine stops. Every stop is safe: the spec says the access cannot arise
(93_implementation_defined.md U1 to U3), and the model stops rather than go on (log 12). -/
inductive Fault where
  /-- A register access to a window whose open flag is 0; raised by `emit` (20_memory.md R64). Safe. -/
  | closedWindow (w : WinName)
  /-- A register index outside its window; raised by `emit` (20_memory.md R64). Safe. -/
  | indexOutside (w : WinName) (i : Nat)
  /-- A MemoryBlock access outside the mapped block or misaligned; raised by `memWrite`
  (20_memory.md R70, R72). Safe. -/
  | outsideBlock (addr : Nat)
  /-- The buffer in the firmware's hands holds none of the four messages; raised by `step`
  (30_encoding.md R111). Safe. -/
  | unknownMessage
  deriving DecidableEq, Repr

/-- Why an instruction has no meaning. -/
inductive Refusal where
  /-- The instruction has no meaning in the model yet; raised by `exec`'s arms only. Safe. -/
  | notModelled (mnemonic : String)
  deriving DecidableEq, Repr

/-- The machine's state. -/
structure State where
  cfg : Config
  sess : Session
  win : Windows
  mem : Memory
  mbox : Mailbox
  seq : Seq
  inflight : Bool
  chan : Channel
  env : Env
  trace : List Event
  deriving DecidableEq, Repr

/-! ## Reset (10_state.md R50, 70_reset_and_hazards.md R280) -/

/-- The registers after reset: STATE, PATTERN_VALID, FAULT and MEM_STAGE as R50 says, every other
register 0, which is this model's choice (log 2). -/
def Session.reset : Session where
  state := .uninitialized
  patternValid := false
  fault := false
  memStage := .none
  gpioId := 0
  altFn := 0
  channel := 0
  periphBase := 0
  byteCount := 0
  freqHz := 0
  resetDelayUs := 0
  zeroCode := 0
  oneCode := 0
  widthBits := 0
  divisor := 0
  scale := 0
  patternBytes := 0
  blockBytes := 0
  memHandle := 0
  memBus := 0
  memVirt := 0

/-- A window record after reset: closed (R50); base and length 0 by choice (log 2). -/
def Window.reset : Window := { phys := 0, len := 0, isOpen := false }

/-- The four windows after reset (R50). -/
def Windows.reset : Windows :=
  { gpio := Window.reset, pwm := Window.reset, cm := Window.reset, dma := Window.reset }

/-- The mailbox after reset: nothing outstanding (70_reset_and_hazards.md R302); buffer empty by
choice (log 2). -/
def Mailbox.reset : Mailbox := { buf := [], waiting := false }

/-- No answer is fixed in advance: every draw after reset is a free value (log 4). -/
def Env.reset : Env := { grants := [], reads := [], mbox := [], maps := [], drawn := 0 }

/-- The machine right after reset, with the premises of 70_reset_and_hazards.md R302: nothing in
flight, no frame offered, nothing recorded; its platform is the spec's REFCFG (log 3). -/
def State.reset : State where
  cfg := Config.refcfg
  sess := Session.reset
  win := Windows.reset
  mem := []
  mbox := Mailbox.reset
  seq := .idle
  inflight := false
  chan := { busy := false, response := none, frames := [], resetLine := false }
  env := Env.reset
  trace := []

end Sys2Proof.Machine
end

