-- ==== Sys2Proof/Machine/Operands.lean ====
section
/-! DEFINITION. Operand ranges (70_reset_and_hazards.md R299, 60_exceptions.md R245 cause 4) and
where each command is legal (44_session.md R211). -/

namespace Sys2Proof.Machine

/-- A duty-cycle percentage is 0 to 100 (41_pattern_encoder.md R150). -/
def percentOk (p : Word) : Bool := decide (p.toNat ≤ 100)

/-- A pattern width is 3 to 16 (41_pattern_encoder.md R151). -/
def widthOk (w : Word) : Bool := decide (3 ≤ w.toNat) && decide (w.toNat ≤ 16)

/-- ENCODE's pattern: two distinct codes below 2^width, width 3 to 16 (R159). -/
def encodeOk (z o w : Word) : Bool :=
  widthOk w && decide (z.toNat < 2 ^ w.toNat) && decide (o.toNat < 2 ^ w.toNat) && decide (z ≠ o)

/-- INIT's operands (44_session.md R214): a channel of the PWM, a code that fits the pin's field,
a pin whose function-select register lies inside the GPIO window. -/
def initOperandsOk (c : Config) (gpioId alt ch : Word) : Bool :=
  decide (ch.toNat < c.periph.pwmChannels) && decide (alt.toNat < 2 ^ c.periph.gpioFselBits) &&
    indexFits c.windowLen (c.gpioIndex gpioId)

/-- CFGPAT's operand ranges (R217). -/
def cfgpatOperandsOk (freq zero one : Word) : Bool :=
  percentOk zero && percentOk one && decide (freq ≠ 0)

/-- Configured or Sending: the session holds its windows (R211: WAIT, DRESET). -/
def Session.live (r : Session) : Bool :=
  decide (r.state = .configured) || decide (r.state = .sending)

/-- Where SEND is legal (R211, R219). -/
def Session.canSend (r : Session) : Bool :=
  (decide (r.state = .configured) && r.patternValid) || decide (r.state = .sending)

/-- Where CFGPAT is legal (R211, R217). -/
def Session.canConfigure (r : Session) : Bool :=
  decide (r.state = .configured) && !r.patternValid

end Sys2Proof.Machine
end

