-- ==== Sys2Proof/Machine/Actions.lean ====
section
/-! DEFINITION. The realisations of the abstract peripheral actions as register accesses
(10_state.md R41 to R47). Their form is the spec's, marked general knowledge (log 6). -/

namespace Sys2Proof.Machine

/-- One entry of a realisation. `modify w i clear set` is a WinRead of register `i` followed by a
WinWrite of `(v & ~clear) | set`, two accesses, not atomic (20_memory.md R63). -/
inductive Access where
  | read (w : WinName) (i : Nat)
  | write (w : WinName) (i : Nat) (v : Word)
  | modify (w : WinName) (i : Nat) (clear set : Word)
  deriving DecidableEq, Repr

/-- The window an access goes to. -/
def Access.window : Access → WinName
  | .read w _ => w
  | .write w _ _ => w
  | .modify w _ _ _ => w

/-- The register index an access goes to. -/
def Access.index : Access → Nat
  | .read _ i => i
  | .write _ i _ => i
  | .modify _ i _ _ => i

/-- The ordered accesses of an action (R42 to R47). -/
def realise (c : Config) : Action → List Access
  | .gpioAlt gpioId alt =>
    [.modify .gpio (c.gpioIndex gpioId) (c.gpioMask <<< c.gpioShift gpioId)
      ((alt &&& c.gpioMask) <<< c.gpioShift gpioId)]
  | .clkStop => [.write .cm c.periph.cmCtlIndex (c.periph.cmPasswd ||| c.periph.cmKill)]
  | .clkConfig d =>
    [.write .cm c.periph.cmDivIndex (c.periph.cmPasswd ||| d <<< c.periph.cmDiviShift),
      .write .cm c.periph.cmCtlIndex (c.periph.cmPasswd ||| c.periph.cmSrc)]
  | .clkEnable =>
    [.write .cm c.periph.cmCtlIndex (c.periph.cmPasswd ||| c.periph.cmSrc ||| c.periph.cmEnab)]
  | .pwmConfig ch =>
    [.write .pwm (c.periph.pwmRngIndex.getD ch.toNat 0) 32,
      .write .pwm c.periph.pwmCtlIndex c.periph.pwmClrf,
      .write .pwm c.periph.pwmDmacIndex c.periph.pwmDmacValue,
      .write .pwm c.periph.pwmCtlIndex
        ((c.periph.pwmUsef ||| c.periph.pwmMode ||| c.periph.pwmPwen) <<<
          c.periph.pwmChShift.getD ch.toNat 0)]
  | .pwmDisable _ => [.write .pwm c.periph.pwmCtlIndex 0]
  | .dmaReset => [.write .dma c.dmaCs c.periph.dmaCsReset]
  | .dmaClearFlags => [.write .dma c.dmaCs (c.periph.dmaCsInt ||| c.periph.dmaCsEnd)]
  | .dmaClearDebug => [.write .dma c.dmaDebug c.periph.dmaDebugErrmask]
  | .dmaSetCb a => [.write .dma c.dmaConblk a]
  | .dmaGo =>
    [.write .dma c.dmaCs
      (c.periph.dmaCsActive ||| c.periph.dmaCsWaitWrites ||| c.periph.dmaCsPrioMax)]
  | .dmaReadCs => [.read .dma c.dmaCs]
  | .dmaReadDebug => [.read .dma c.dmaDebug]

/-- INFLIGHT is set by A_DMA_GO and cleared by A_DMA_RESET (20_memory.md R82); the clearing by a
status word is DmaWait's. -/
def Action.inflightAfter (a : Action) (before : Bool) : Bool :=
  match a with
  | .dmaGo => true
  | .dmaReset => false
  | .gpioAlt _ _ => before
  | .clkStop => before
  | .clkConfig _ => before
  | .clkEnable => before
  | .pwmConfig _ => before
  | .pwmDisable _ => before
  | .dmaClearFlags => before
  | .dmaClearDebug => before
  | .dmaSetCb _ => before
  | .dmaReadCs => before
  | .dmaReadDebug => before

end Sys2Proof.Machine
end

