-- ==== Sys2Proof/Syntax.lean ====
section
/-! DEFINITION. The instructions: one constructor per row of spec/opcode_table.json. -/

namespace Sys2Proof

/-- The fifteen commands (30_encoding.md R102) and the four mailbox messages (R111).
Operands are whole unsigned 32-bit words in the order of R102; `len` of SEND and ENCODE
is the length of the payload (R103, R107). -/
inductive Instr where
  /-- STAT, opcode 0x00 (44_session.md R210). -/
  | stat
  /-- INIT, opcode 0x01 (44_session.md R214). -/
  | init (gpioId altFunctionId channel peripheralBaseAddress : Word)
  /-- CFGPAT, opcode 0x02 (44_session.md R217). -/
  | cfgpat (byteCount frequencyHz resetDelayUs dutyZeroPercent dutyOnePercent : Word)
  /-- SEND, opcode 0x03 (44_session.md R219). -/
  | send (payload : List Byte)
  /-- WAIT, opcode 0x04 (44_session.md R221). -/
  | wait
  /-- SHUTDOWN, opcode 0x05 (44_session.md R222). -/
  | shutdown
  /-- DRESET, opcode 0x06 (43_dma_engine.md R198). -/
  | dreset
  /-- SOLVE, opcode 0x10 (40_clock_divisor.md R141). -/
  | solve (baseClockHz desiredHz : Word)
  /-- SOLVEU, opcode 0x11 (40_clock_divisor.md R143). -/
  | solveu (baseClockHz desiredHz : Word)
  /-- REPR, opcode 0x20 (41_pattern_encoder.md R152). -/
  | repr (percent width : Word)
  /-- CHWIDTH, opcode 0x21 (41_pattern_encoder.md R154). -/
  | chwidth (zeroPercent onePercent : Word)
  /-- ENCODE, opcode 0x22 (41_pattern_encoder.md R159). -/
  | encode (zeroCode oneCode widthBits : Word) (payload : List Byte)
  /-- BUFSIZE, opcode 0x23 (44_session.md R216). -/
  | bufsize (byteCount frequencyHz resetDelayUs widthBits : Word)
  /-- BLDDESC, opcode 0x30 (43_dma_engine.md R192). -/
  | blddesc (sourceBusAddress destPhysicalAddress byteLength : Word)
  /-- V2BUS, opcode 0x31 (42_mailbox_allocator.md R184). -/
  | v2bus (pointer : Word)
  /-- MB_ALLOC, tag 0x3000c (42_mailbox_allocator.md R173). -/
  | mbAlloc (size pageAlignment cacheFlags : Word)
  /-- MB_LOCK, tag 0x3000d (42_mailbox_allocator.md R174). -/
  | mbLock (handle : Word)
  /-- MB_UNLOCK, tag 0x3000e (42_mailbox_allocator.md R175). -/
  | mbUnlock (handle : Word)
  /-- MB_FREE, tag 0x3000f (42_mailbox_allocator.md R176). -/
  | mbFree (handle : Word)
  deriving DecidableEq, Repr

/-- Where an instruction's words stand: a frame of the command channel (30_encoding.md R100)
or the mailbox message buffer (R110). -/
inductive Carrier where
  | command
  | mailbox
  deriving DecidableEq, Repr

end Sys2Proof
end

