-- ==== Sys2Proof/WellFormed.lean ====
section
/-! DEFINITION. Well-formed instructions: those a frame or a message can carry. -/

namespace Sys2Proof

/-- The payload's length is an operand word (30_encoding.md R102, R103), so it is below 2^32.
Every other operand is a word by its type. Operand RANGES (a percentage above 100, say) are no
matter of form: the command itself refuses them (44_session.md R213). -/
def Instr.wf : Instr → Bool
  | .send payload => decide (payload.length < 4294967296)
  | .encode _ _ _ payload => decide (payload.length < 4294967296)
  | .stat => true
  | .init _ _ _ _ => true
  | .cfgpat _ _ _ _ _ => true
  | .wait => true
  | .shutdown => true
  | .dreset => true
  | .solve _ _ => true
  | .solveu _ _ => true
  | .repr _ _ => true
  | .chwidth _ _ => true
  | .bufsize _ _ _ _ => true
  | .blddesc _ _ _ => true
  | .v2bus _ => true
  | .mbAlloc _ _ _ => true
  | .mbLock _ => true
  | .mbUnlock _ => true
  | .mbFree _ => true

end Sys2Proof
end

