-- ==== Sys2Proof/Decode.lean ====
section
/-! DEFINITION. The decoder, total on any words, and after it the encoder (30_encoding.md).
Two carriers hold instructions: a command frame (R100 to R103, R106) and a mailbox message
(R110, R111). -/

namespace Sys2Proof

/-- Why words decode to no instruction. The first three are R106's verdicts, in its order of
checks; the last is a mailbox message that is none of R111's four. -/
inductive DecodeError where
  | reservedBits
  | illegalOpcode
  | badFrame
  | badMessage
  deriving DecidableEq, Repr

/-! ## Payload bytes -/

/-- The four bytes of a word, least significant first (R103, 20_memory.md R71). -/
def wordBytes (w : Word) : List Byte := [byteOf w 0, byteOf w 1, byteOf w 2, byteOf w 3]

/-- `payload[i]` is bits `[8·(i mod 4)+7 : 8·(i mod 4)]` of payload word `i div 4`; bits beyond
byte `len − 1` are ignored (R103). -/
def unpackPayload (len : Nat) (ws : List Word) : List Byte := (ws.flatMap wordBytes).take len

/-- The payload words of a byte buffer, the unused bits of the last word 0 (R103). -/
def packPayload : List Byte → List Word
  | [] => []
  | [a] => [wordOfBytes a 0 0 0]
  | [a, b] => [wordOfBytes a b 0 0]
  | [a, b, c] => [wordOfBytes a b c 0]
  | a :: b :: c :: d :: rest => wordOfBytes a b c d :: packPayload rest

/-! ## Command frames -/

/-- The opcode map: operand words `n`, and whether a payload follows (R102, R130). -/
def opcodeInfo : Nat → Option (Nat × Bool)
  | 0x00 => some (0, false)
  | 0x01 => some (4, false)
  | 0x02 => some (5, false)
  | 0x03 => some (1, true)
  | 0x04 => some (0, false)
  | 0x05 => some (0, false)
  | 0x06 => some (0, false)
  | 0x10 => some (2, false)
  | 0x11 => some (2, false)
  | 0x20 => some (2, false)
  | 0x21 => some (2, false)
  | 0x22 => some (4, true)
  | 0x23 => some (4, false)
  | 0x30 => some (3, false)
  | 0x31 => some (1, false)
  | _ => none

/-- The instruction of a legal opcode with the words after the command word; none where their
number is not the one R103 gives. -/
def buildCommand : Nat → List Word → Option Instr
  | 0x00, [] => some .stat
  | 0x01, [g, a, c, b] => some (.init g a c b)
  | 0x02, [n, f, r, z, o] => some (.cfgpat n f r z o)
  | 0x03, len :: ws =>
    if ws.length = ceilDiv len.toNat 4 then some (.send (unpackPayload len.toNat ws)) else none
  | 0x04, [] => some .wait
  | 0x05, [] => some .shutdown
  | 0x06, [] => some .dreset
  | 0x10, [b, d] => some (.solve b d)
  | 0x11, [b, d] => some (.solveu b d)
  | 0x20, [p, w] => some (.repr p w)
  | 0x21, [z, o] => some (.chwidth z o)
  | 0x22, len :: z :: o :: w :: ws =>
    if ws.length = ceilDiv len.toNat 4 then some (.encode z o w (unpackPayload len.toNat ws))
    else none
  | 0x23, [n, f, r, w] => some (.bufsize n f r w)
  | 0x30, [s, d, l] => some (.blddesc s d l)
  | 0x31, [p] => some (.v2bus p)
  | _, _ => none

/-- R106: every frame gets exactly one verdict, reserved bits before opcode before length.
The empty list is no frame (R100); it is answered like a frame too short (log 13). -/
def decodeFrame : List Word → Except DecodeError Instr
  | [] => .error .badFrame
  | c :: ws =>
    if c.toNat / 256 ≠ 0 then .error .reservedBits
    else if (opcodeInfo c.toNat).isNone then .error .illegalOpcode
    else match buildCommand c.toNat ws with
      | some i => .ok i
      | none => .error .badFrame

/-! ## Mailbox messages -/

/-- The tag of MB_ALLOC (00_scope.md R7). -/
def tagAlloc : Word := 0x3000c
/-- The tag of MB_LOCK (R7). -/
def tagLock : Word := 0x3000d
/-- The tag of MB_UNLOCK (R7). -/
def tagUnlock : Word := 0x3000e
/-- The tag of MB_FREE (R7). -/
def tagFree : Word := 0x3000f

/-- `msg(tag, args)` with the request code `code` (R110, 42_mailbox_allocator.md R171). -/
def mailboxMessage (code tag : Word) (args : List Word) : List Word :=
  [trunc32 (4 * (args.length + 6)), code, tag, trunc32 (4 * args.length),
    trunc32 (4 * args.length)] ++ args ++ [0]

/-- The message an outstanding request buffer holds (R111); `code` is MBOX_REQ_CODE. Every word
is checked (log 14). -/
def decodeMessage (code : Word) : List Word → Except DecodeError Instr
  | [size, c, tag, bufferSize, dataSize, a, b, f, endTag] =>
    if size = 36 ∧ c = code ∧ tag = tagAlloc ∧ bufferSize = 12 ∧ dataSize = 12 ∧ endTag = 0 then
      .ok (.mbAlloc a b f)
    else .error .badMessage
  | [size, c, tag, bufferSize, dataSize, h, endTag] =>
    if size = 28 ∧ c = code ∧ bufferSize = 4 ∧ dataSize = 4 ∧ endTag = 0 then
      if tag = tagLock then .ok (.mbLock h)
      else if tag = tagUnlock then .ok (.mbUnlock h)
      else if tag = tagFree then .ok (.mbFree h)
      else .error .badMessage
    else .error .badMessage
  | _ => .error .badMessage

/-- The decoder of both carriers. -/
def decode (code : Word) : Carrier → List Word → Except DecodeError Instr
  | .command, ws => decodeFrame ws
  | .mailbox, ws => decodeMessage code ws

/-! ## The encoder -/

/-- Which carrier an instruction's words are made for. -/
def Instr.carrier : Instr → Carrier
  | .mbAlloc _ _ _ => .mailbox
  | .mbLock _ => .mailbox
  | .mbUnlock _ => .mailbox
  | .mbFree _ => .mailbox
  | .stat => .command
  | .init _ _ _ _ => .command
  | .cfgpat _ _ _ _ _ => .command
  | .send _ => .command
  | .wait => .command
  | .shutdown => .command
  | .dreset => .command
  | .solve _ _ => .command
  | .solveu _ _ => .command
  | .repr _ _ => .command
  | .chwidth _ _ => .command
  | .encode _ _ _ _ => .command
  | .bufsize _ _ _ _ => .command
  | .blddesc _ _ _ => .command
  | .v2bus _ => .command

/-- The words of an instruction, from R102, R103 and R111; `code` is MBOX_REQ_CODE. -/
def encode (code : Word) : Instr → List Word
  | .stat => [0x00]
  | .init g a c b => [0x01, g, a, c, b]
  | .cfgpat n f r z o => [0x02, n, f, r, z, o]
  | .send payload => 0x03 :: trunc32 payload.length :: packPayload payload
  | .wait => [0x04]
  | .shutdown => [0x05]
  | .dreset => [0x06]
  | .solve b d => [0x10, b, d]
  | .solveu b d => [0x11, b, d]
  | .repr p w => [0x20, p, w]
  | .chwidth z o => [0x21, z, o]
  | .encode z o w payload => 0x22 :: trunc32 payload.length :: z :: o :: w :: packPayload payload
  | .bufsize n f r w => [0x23, n, f, r, w]
  | .blddesc s d l => [0x30, s, d, l]
  | .v2bus p => [0x31, p]
  | .mbAlloc size align flags => mailboxMessage code tagAlloc [size, align, flags]
  | .mbLock h => mailboxMessage code tagLock [h]
  | .mbUnlock h => mailboxMessage code tagUnlock [h]
  | .mbFree h => mailboxMessage code tagFree [h]

/-! ## Words numbered as spec/opcode_table.json numbers them -/

/-- The first `k` 32-bit words of a number, the first word in its low bits. -/
def wordsOfNat (k w : Nat) : List Word :=
  (List.range k).map fun i => BitVec.ofNat 32 (w >>> (32 * i))

/-- What a row's number stands for: a command frame, or a mailbox message named by its tag. -/
inductive TableWords where
  | frame (ws : List Word)
  | message (tag : Word) (args : List Word)
  deriving DecidableEq, Repr

/-- How many words a frame has, from its first two words (R103); 1 for an unknown opcode. -/
def frameLength (c len : Word) : Nat :=
  match opcodeInfo c.toNat with
  | some (n, payload) => 1 + n + (if payload then ceilDiv len.toNat 4 else 0)
  | none => 1

/-- Lay out the words of a row's number. A command row's number begins with the command word
f[0]. A mailbox row's number begins with the tagId, which is word 2 of the message, since that
is the word the row matches (R131; log 14); the words before it and the end tag are R110's.
Bits above `nbits` are 0, up to the length the instruction has. -/
def tableWords (nbits w : Nat) : TableWords :=
  let v := w % 2 ^ nbits
  let given := ceilDiv nbits 32
  let first : Word := BitVec.ofNat 32 v
  if first = tagAlloc then .message first ((wordsOfNat (max given 4) v).drop 1)
  else if first = tagLock ∨ first = tagUnlock ∨ first = tagFree then
    .message first ((wordsOfNat (max given 2) v).drop 1)
  else
    .frame (wordsOfNat (max given (frameLength first (BitVec.ofNat 32 (v >>> 32)))) v)

/-- The instruction the decoder reads from an instruction whose bits are `w`, numbered as
spec/opcode_table.json numbers them. A mailbox message is laid out with request code 0. -/
def decodeTableWord (nbits w : Nat) : Option Instr :=
  match tableWords nbits w with
  | .frame ws => (decodeFrame ws).toOption
  | .message tag args => (decodeMessage 0 (mailboxMessage 0 tag args)).toOption

end Sys2Proof
end

