-- ==== Sys2Proof/Machine/Flags.lean ====
section
/-! DEFINITION. The status word of a response (30_encoding.md R104) and the flags STAT reports
(R105). No command sets a condition code (10_state.md R27). -/

namespace Sys2Proof.Machine

/-- STATE's code (10_state.md R22). -/
def Phase.code : Phase → Nat
  | .uninitialized => 0
  | .configured => 1
  | .sending => 2
  | .shutDown => 3

/-- MEM_STAGE's code (10_state.md R31). -/
def MemStage.code : MemStage → Nat
  | .none => 0
  | .allocated => 1
  | .locked => 2
  | .mapped => 3

/-- DeviceError's cause, by the window refused (60_exceptions.md R241). -/
def WinName.cause : WinName → Nat
  | .gpio => 1
  | .pwm => 2
  | .cm => 3
  | .dma => 4

/-- AllocError's causes (R242). -/
def AllocCause.code : AllocCause → Nat
  | .allocZero => 1
  | .lockFailed => 2
  | .mapFailed => 3
  | .mboxFailed => 4

/-- UsageError's causes (R245). -/
def UsageCause.code : UsageCause → Nat
  | .illegalOpcode => 1
  | .reservedBits => 2
  | .wrongState => 3
  | .badOperand => 4
  | .outOfBlock => 5
  | .badFrame => 6
  | .badConfig => 7

/-- The kind field (R104, R240 to R245). -/
def CmdError.kind : CmdError → Nat
  | .device _ => 1
  | .alloc _ => 2
  | .noWidth => 3
  | .dmaError _ => 4
  | .usage _ => 5

/-- The cause field (R241 to R245). -/
def CmdError.cause : CmdError → Nat
  | .device w => w.cause
  | .alloc c => c.code
  | .noWidth => 1
  | .dmaError _ => 1
  | .usage c => c.code

/-- The info words: the debug word of HardwareFaultError and nothing else (R105, R244). -/
def CmdError.info : CmdError → List Word
  | .dmaError g => [g]
  | .device _ => []
  | .alloc _ => []
  | .noWidth => []
  | .usage _ => []

/-- The status word: cause in bits 15:8, kind in bits 3:0, the rest 0 (R104). -/
def statusWord (kind cause : Nat) : Word := trunc32 (cause * 256 + kind)

/-- The response of a command that ends in an error (R105, R248). -/
def CmdError.response (e : CmdError) : List Word := statusWord e.kind e.cause :: e.info

/-- The UsageError a decode refusal is reported as (R106, R245). A bad mailbox message is no
frame of the host and is never reported so. -/
def decodeCause : DecodeError → UsageCause
  | .reservedBits => .reservedBits
  | .illegalOpcode => .illegalOpcode
  | .badFrame => .badFrame
  | .badMessage => .badFrame

/-- A flag as a bit at place `n`. -/
def flagBit (b : Bool) (n : Nat) : Word := if b then trunc32 (2 ^ n) else 0

/-- The result word of STAT (R105, 44_session.md R210). -/
def statWord (r : Session) (w : Windows) : Word :=
  trunc32 r.state.code ||| flagBit r.patternValid 2 ||| flagBit r.fault 3 |||
    trunc32 (r.memStage.code * 16) ||| flagBit w.gpio.isOpen 8 ||| flagBit w.pwm.isOpen 9 |||
    flagBit w.cm.isOpen 10 ||| flagBit w.dma.isOpen 11

end Sys2Proof.Machine
end

