-- ==== Sys2Proof/Machine/Memory.lean ====
section
/-! DEFINITION. The MemoryBlock's bytes and little-endian words (20_memory.md R70, R71). -/

namespace Sys2Proof.Machine

/-- The byte at an address; none where nothing has been written since the mapping (R70). -/
def Memory.read (m : Memory) (a : Nat) : Option Byte :=
  match m with
  | [] => none
  | (x, b) :: rest => if x = a then some b else Memory.read rest a

/-- Store one byte, keeping the addresses strictly rising. -/
def Memory.write (m : Memory) (a : Nat) (b : Byte) : Memory :=
  match m with
  | [] => [(a, b)]
  | (x, c) :: rest =>
    if a < x then (a, b) :: (x, c) :: rest
    else if a = x then (a, b) :: rest
    else (x, c) :: Memory.write rest a b

/-- Store a word: bits `[8r+7 : 8r]` in the byte at `a + r` (R71). -/
def Memory.writeWord (m : Memory) (a : Nat) (v : Word) : Memory :=
  (((m.write a (byteOf v 0)).write (a + 1) (byteOf v 1)).write (a + 2) (byteOf v 2)).write (a + 3)
    (byteOf v 3)

/-- The word at an address; none where one of its bytes holds no value (R70). -/
def Memory.readWord (m : Memory) (a : Nat) : Option Word :=
  match m.read a, m.read (a + 1), m.read (a + 2), m.read (a + 3) with
  | some b0, some b1, some b2, some b3 => some (wordOfBytes b0 b1 b2 b3)
  | _, _, _, _ => none

/-- Store words at consecutive ascending word addresses. -/
def Memory.writeWords (m : Memory) (a : Nat) : List Word → Memory
  | [] => m
  | v :: vs => Memory.writeWords (m.writeWord a v) (a + 4) vs

end Sys2Proof.Machine
end

