-- ==== Sys2Proof/Machine/Ops.lean ====
section
/-! DEFINITION. The named operations every meaning is written from: responding and raising, the
primitives that touch the world outside the block (00_scope.md R12), and the block's addresses. -/

namespace Sys2Proof.Machine

/-- The outcome of a step. -/
abbrev Res := Host.Outcome State Fault Refusal

/-- Go on where the first part answered a next state. -/
def andThen (r : Res) (k : State → Res) : Res :=
  match r with
  | .next s => k s
  | .fault f => .fault f
  | .refused x => .refused x

/-! ## The end of a command -/

/-- Append to the event history. -/
def record (es : List Event) (s : State) : State := { s with trace := s.trace ++ es }

/-- Produce the response and clear BUSY (30_encoding.md R100, R104, 10_state.md R36). -/
def respond (words : List Word) (s : State) : State :=
  { s with
    seq := .idle
    chan := { s.chan with busy := false, response := some words }
    trace := s.trace ++ [.response words] }

/-- The response of a command that ends OK: status word 0 and the result words (R104, R105). -/
def respondOk (results : List Word) (s : State) : State := respond (statusWord 0 0 :: results) s

/-- `raise K(cause, info)` (60_exceptions.md R248), the block's only way to take an exception: the
command stops, the response carries kind, cause and info word, nothing is saved anywhere else. The
sticky FAULT flag is set where the error is observed (10_state.md R25, 43_dma_engine.md R196). -/
def raise (e : CmdError) (s : State) : State := respond e.response s

/-! ## The other agents' answers (20_memory.md R80 to R85; log 4) -/

/-- The platform's next answer to a WinOpen. -/
def Env.nextGrant (e : Env) : Bool := e.grants.headD (Config.freeGrant e.drawn)

/-- The next word a register read answers with. -/
def Env.nextRead (e : Env) : Word := e.reads.headD (Config.freeRead e.drawn)

/-- The firmware's next answer. -/
def Env.nextMbox (e : Env) : MboxAnswer := e.mbox.headD (Config.freeMbox e.drawn)

/-- The platform's next answer to a MapPhys. -/
def Env.nextMap (e : Env) : Option Word := e.maps.headD (Config.freeMap e.drawn)

/-- One WinOpen answer is used up. -/
def Env.popGrant (e : Env) : Env := { e with grants := e.grants.tail, drawn := e.drawn + 1 }

/-- One register word is used up. -/
def Env.popRead (e : Env) : Env := { e with reads := e.reads.tail, drawn := e.drawn + 1 }

/-- One firmware answer is used up. -/
def Env.popMbox (e : Env) : Env := { e with mbox := e.mbox.tail, drawn := e.drawn + 1 }

/-- One MapPhys answer is used up. -/
def Env.popMap (e : Env) : Env := { e with maps := e.maps.tail, drawn := e.drawn + 1 }

/-- A free value is used up that is no agent's answer. -/
def Env.popFree (e : Env) : Env := { e with drawn := e.drawn + 1 }

/-! ## Register windows (20_memory.md R62 to R66) -/

/-- One of the four window records. -/
def Windows.get (ws : Windows) : WinName → Window
  | .gpio => ws.gpio
  | .pwm => ws.pwm
  | .cm => ws.cm
  | .dma => ws.dma

/-- Replace one of the four window records. -/
def Windows.set (ws : Windows) (n : WinName) (w : Window) : Windows :=
  match n with
  | .gpio => { ws with gpio := w }
  | .pwm => { ws with pwm := w }
  | .cm => { ws with cm := w }
  | .dma => { ws with dma := w }

/-- `WinOpen(phys, WINDOW_LEN)` of window `n` (R62): granted, the record becomes
{phys, len, open = 1}; refused, it is as before. The answer itself is `s.env.nextGrant`. -/
def winOpen (n : WinName) (phys : Word) (s : State) : State :=
  { s with
    win :=
      if s.env.nextGrant then s.win.set n { phys := phys, len := s.cfg.windowLen, isOpen := true }
      else s.win
    env := s.env.popGrant
    trace := s.trace ++ [.winOpen n phys s.cfg.windowLen s.env.nextGrant] }

/-- `WinClose(w)` (R65): closing a window that is not open does nothing. -/
def winClose (n : WinName) (s : State) : State :=
  if (s.win.get n).isOpen then
    { s with
      win := s.win.set n { s.win.get n with isOpen := false }
      trace := s.trace ++ [.winClose n] }
  else s

/-- `WinRead(w, i)` (R63, R81). The word read is `s.env.nextRead`. -/
def winRead (n : WinName) (i : Nat) (s : State) : State :=
  { s with env := s.env.popRead, trace := s.trace ++ [.winRead n i s.env.nextRead] }

/-- `WinWrite(w, i, v)` (R63): recorded, no effect on the block's own state (R81). -/
def winWrite (n : WinName) (i : Nat) (v : Word) (s : State) : State :=
  { s with trace := s.trace ++ [.winWrite n i v] }

/-- One entry of a realisation, performed. -/
def performAccess (s : State) : Access → State
  | .read n i => winRead n i s
  | .write n i v => winWrite n i v s
  | .modify n i clear set => winWrite n i ((s.env.nextRead &&& ~~~clear) ||| set) (winRead n i s)

/-- An action performed: its realisation in order (10_state.md R41), and what it does to the
in-flight record (20_memory.md R82). -/
def perform (a : Action) (s : State) : State :=
  { (realise s.cfg a).foldl performAccess (record [.action a] s) with
    inflight := a.inflightAfter s.inflight }

/-- Why an access may not be made (R64), if it may not. -/
def accessFault (s : State) (x : Access) : Option Fault :=
  if ¬ (s.win.get x.window).isOpen then some (.closedWindow x.window)
  else if ¬ indexFits (s.win.get x.window).len x.index then some (.indexOutside x.window x.index)
  else none

/-- `emit A` (00_scope.md R12, 10_state.md R41): stop if an access of A goes to a closed window or
outside its window, else perform A. -/
def emit (a : Action) (s : State) : Res :=
  match (realise s.cfg a).findSome? (accessFault s) with
  | some f => .fault f
  | none => .next (perform a s)

/-- Several actions, nothing between them. -/
def emitAll : List Action → State → Res
  | [], s => .next s
  | a :: as, s => andThen (emit a s) (emitAll as)

/-! ## The MemoryBlock (20_memory.md R68 to R71) -/

/-- Is `addr` an address `MemWrite(addr, 4, v)` is defined at (R70)? -/
def blockHolds (s : State) (addr : Nat) : Bool :=
  decide (s.sess.memStage = .mapped) && decide (s.sess.memVirt.toNat ≤ addr) &&
    decide ((addr - s.sess.memVirt.toNat) % 4 = 0) &&
    decide (addr - s.sess.memVirt.toNat + 4 ≤ s.sess.blockBytes.toNat)

/-- `MemWrite(addr, 4, v)` (R70). -/
def memWrite (addr : Nat) (v : Word) (s : State) : Res :=
  if blockHolds s addr then
    .next { s with mem := s.mem.writeWord addr v, trace := s.trace ++ [.memWrite addr v] }
  else .fault (.outsideBlock addr)

/-- MemWrites of consecutive words at ascending addresses. -/
def memWrites (addr : Nat) : List Word → State → Res
  | [], s => .next s
  | v :: vs, s => andThen (memWrite addr v s) (memWrites (addr + 4) vs)

/-- `MemRead(addr, 4)` (R70); no instruction uses it. -/
def memRead (addr : Nat) (s : State) : Option Word :=
  if blockHolds s addr then s.mem.readWord addr else none

/-- The block-virtual address of byte `k` of the block (R68). -/
def blockVirt (r : Session) (k : Nat) : Nat := r.memVirt.toNat + k

/-- The bus address of byte `k` of the block (R68). -/
def blockBus (r : Session) (k : Nat) : Word := trunc32 (r.memBus.toNat + k)

/-- The physical address of byte `k` of the block (R68). -/
def blockPhys (c : Config) (r : Session) (k : Nat) : Nat :=
  (r.memBus &&& ~~~c.uncachedAliasMask).toNat + k

/-- `DESC_BUS = MEM_BUS` (10_state.md R33). -/
def descBus (r : Session) : Word := r.memBus

/-- `SRC_BUS = trunc32(MEM_BUS + DESC_BYTES)` (10_state.md R33). -/
def srcBus (c : Config) (r : Session) : Word := blockBus r c.descBytes

/-- The block-virtual address of pattern word 0 (20_memory.md R69). -/
def patternVirt (c : Config) (r : Session) : Nat := blockVirt r c.descBytes

/-! ## The mailbox (42_mailbox_allocator.md R171, R172) -/

/-- An answer's words overwrite the message's word by word; the answer has the message's length,
and words the list does not give are free values (R172, 20_memory.md R84). -/
def overwriteMessage (drawn : Nat) (m ws : List Word) : List Word :=
  (List.range m.length).map fun i => (ws[i]?).getD (Config.freeMboxWord drawn i)

/-- What `MboxCall(m)` meets in this state. -/
def mboxAnswer (m : List Word) (s : State) : MboxAnswer :=
  match s.env.nextMbox with
  | .pending => .pending
  | .failed => .failed
  | .answered ws => .answered (overwriteMessage s.env.drawn m ws)

/-- The buffer after an exchange: the answer's words, or the message where there is no answer. -/
def bufferAfter (m : List Word) : MboxAnswer → List Word
  | .pending => m
  | .failed => m
  | .answered ws => ws

/-- The record of an exchange, which is one ioctl (30_encoding.md R112); none while the firmware has
not answered. -/
def mboxEvents (m : List Word) : MboxAnswer → List Event
  | .pending => []
  | .failed => [.mbox mboxIoctl m none]
  | .answered ws => [.mbox mboxIoctl m (some ws)]

/-- `MboxCall(m)` (R172): hand the buffer to the firmware; while it has not answered the buffer
stays in its hands. What was met is `mboxAnswer m s`. -/
def mboxCall (m : List Word) (s : State) : State :=
  { s with
    mbox := { buf := bufferAfter m (mboxAnswer m s), waiting := decide (mboxAnswer m s = .pending) }
    env := s.env.popMbox
    trace := s.trace ++ mboxEvents m (mboxAnswer m s) }

/-- `msg(tag, args)` with this machine's request code (R171). -/
def request (tag : Word) (args : List Word) (s : State) : List Word :=
  mailboxMessage s.cfg.mboxReqCode tag args

/-- Word 5 of an answer, the only word ever read (R177). -/
def word5 (ws : List Word) : Word := ws.getD 5 0

end Sys2Proof.Machine
end

