-- ==== Sys2Proof/Machine/BufferSize.lean ====
section
/-! DEFINITION. The buffer-size formula and BUFSIZE (44_session.md R215, R216). -/

namespace Sys2Proof.Machine

/-- `dataBits(n, w) = n · 8 · w` (R215). -/
def dataBits (n w : Nat) : Nat := n * 8 * w

/-- `gapBits(f, r, w) = (r · f · w) div 1_000_000` (R215). -/
def gapBits (f r w : Nat) : Nat := r * f * w / 1000000

/-- `patternBytes(n, f, r, w)` (R215). -/
def patternBytes (n f r w : Nat) : Nat := roundUp (ceilDiv (dataBits n w + gapBits f r w) 8) 4

/-- `blockBytes(n, f, r, w)` (R215). -/
def blockBytes (c : Config) (n f r w : Nat) : Nat :=
  roundUp (patternBytes n f r w + c.descBytes) c.pageSize

/-- BUFSIZE (R216): legal in every state. -/
def execBufsize (byteCount frequencyHz resetDelayUs widthBits : Word) (s : State) : Res :=
  let pb := patternBytes byteCount.toNat frequencyHz.toNat resetDelayUs.toNat widthBits.toNat
  let bb := blockBytes s.cfg byteCount.toNat frequencyHz.toNat resetDelayUs.toNat widthBits.toNat
  .next (
    if widthOk widthBits && decide (bb < 2 ^ 32) then respondOk [trunc32 pb, trunc32 bb] s
    else raise (.usage .badOperand) s)

end Sys2Proof.Machine
end

