-- ==== Sys2Proof/Machine/ClockDivisor.lean ====
section
/-! DEFINITION. The clock divisor calculator: SOLVE and SOLVEU (40_clock_divisor.md). -/

namespace Sys2Proof.Machine

/-- The scale search of R141: while the quotient exceeds MAX_DIVISOR, multiply the scale by ten
and recompute. `fuel` bounds the rounds; R144 says ten are enough for 32-bit operands. -/
def solveLoop (fuel maxDivisor base desired scale : Nat) : Nat × Nat :=
  match fuel with
  | 0 => (base / (desired * scale), scale)
  | fuel + 1 =>
    if base / (desired * scale) > maxDivisor then
      solveLoop fuel maxDivisor base desired (scale * 10)
    else (base / (desired * scale), scale)

/-- `solve(base, desired)`, desired > 0: (divisor, scale) (R141); a quotient of 0 becomes 1. -/
def solve (maxDivisor base desired : Nat) : Nat × Nat :=
  let r := solveLoop 10 maxDivisor base desired 1
  (if r.1 = 0 then 1 else r.1, r.2)

/-- `solveUnscaled(base, desired)`, desired > 0 (R142). -/
def solveUnscaled (maxDivisor base desired : Nat) : Nat :=
  let d := base / desired
  let d := if d > maxDivisor then maxDivisor else d
  if d < 1 then 1 else d

/-- SOLVE (R141): legal in every state; the scale in two words, low first (30_encoding.md R105). -/
def execSolve (baseClockHz desiredHz : Word) (s : State) : Res :=
  .next (
    if desiredHz = 0 then raise (.usage .badOperand) s
    else
      let r := solve s.cfg.maxDivisor baseClockHz.toNat desiredHz.toNat
      respondOk [trunc32 r.1, trunc32 r.2, trunc32 (r.2 / 2 ^ 32)] s)

/-- SOLVEU (R143): legal in every state. -/
def execSolveu (baseClockHz desiredHz : Word) (s : State) : Res :=
  .next (
    if desiredHz = 0 then raise (.usage .badOperand) s
    else
      respondOk [trunc32 (solveUnscaled s.cfg.maxDivisor baseClockHz.toNat desiredHz.toNat)] s)

end Sys2Proof.Machine
end

