-- ==== Sys2Proof/Machine/Descriptor.lean ====
section
/-! DEFINITION. The DMA descriptor builder and the channel sequences that wait for nothing:
BLDDESC, DmaStart, DmaReset, DRESET (43_dma_engine.md). -/

namespace Sys2Proof.Machine

/-- `buildDescriptor(sourceBusAddress, destPhysicalAddress, byteLength)` (R191, 30_encoding.md
R120): six fields, then reserved words 0, DESC_BYTES / 4 words in all. -/
def buildDescriptor (c : Config) (source dest length : Word) : List Word :=
  [c.transferInfo, source, dest, length, 0, 0] ++ List.replicate (c.descBytes / 4 - 6) 0

/-- BLDDESC (R192): legal in every state, checks nothing, writes no memory. -/
def execBlddesc (source dest length : Word) (s : State) : Res :=
  .next (respondOk (buildDescriptor s.cfg source dest length) s)

/-- `WriteDescriptor(D)` (R193): the words in ascending order from byte 0 of the block. -/
def writeDescriptor (words : List Word) (s : State) : Res :=
  memWrites (blockVirt s.sess 0) words s

/-- `DmaStart(descriptorBusAddress)`: five actions, nothing between them (R194). -/
def dmaStart (address : Word) (s : State) : Res :=
  emitAll [.dmaReset, .dmaClearFlags, .dmaClearDebug, .dmaSetCb address, .dmaGo] s

/-- `DmaReset()` (R197). -/
def dmaReset (s : State) : Res := emit .dmaReset s

/-- DRESET (R198). -/
def execDreset (s : State) : Res :=
  if s.sess.live then
    andThen (dmaReset s) fun t =>
      .next (respondOk []
        { t with
          sess :=
            { t.sess with
              state := if t.sess.state = .sending then .configured else t.sess.state } })
  else .next (raise (.usage .wrongState) s)

end Sys2Proof.Machine
end

