-- ==== Sys2Proof/Machine/Configure.lean ====
section
/-! DEFINITION. CFGPAT from its mapped block to its response (44_session.md R217). -/

namespace Sys2Proof.Machine

/-- The divisor CFGPAT uses: the product `widthBits · frequencyHz` is exact (R217). -/
def jobDivisor (c : Config) (j : CfgJob) : Word :=
  trunc32 (solveUnscaled c.maxDivisor c.baseClockHz.toNat (j.widthBits.toNat * j.freqHz.toNat))

/-- The registers CFGPAT writes at its end (R217). -/
def Session.configured (r : Session) (j : CfgJob) (divisor : Word) : Session :=
  { r with
    byteCount := j.byteCount
    freqHz := j.freqHz
    resetDelayUs := j.resetDelayUs
    zeroCode := j.zeroCode
    oneCode := j.oneCode
    widthBits := j.widthBits
    divisor := divisor
    scale := 1
    patternBytes := j.patternBytes
    patternValid := true }

/-- CFGPAT's result words res[0..6] (30_encoding.md R105). -/
def cfgpatResults (r : Session) : List Word :=
  [r.zeroCode.setWidth 32, r.oneCode.setWidth 32, r.widthBits.setWidth 32, r.divisor,
    r.patternBytes, r.blockBytes, r.memBus]

/-- The descriptor CFGPAT writes (R217): source SRC_BUS, destination FIFO_DEST_ADDR, length
PATTERN_BYTES. -/
def jobDescriptor (s : State) (j : CfgJob) : List Word :=
  buildDescriptor s.cfg (srcBus s.cfg s.sess) (s.cfg.fifoDestAddr s.sess.periphBase)
    j.patternBytes

/-- R217 once the block is mapped: zero-fill, clock, PWM, descriptor, registers, response. -/
def finishConfigure (j : CfgJob) (s : State) : Res :=
  andThen
    (memWrites (patternVirt s.cfg s.sess) (List.replicate (j.patternBytes.toNat / 4) 0) s) fun a =>
  andThen
    (emitAll
      [.clkStop, .clkConfig (jobDivisor s.cfg j), .clkEnable, .pwmConfig s.sess.channel] a) fun b =>
  andThen (writeDescriptor (jobDescriptor b j) b) fun d =>
    let r := d.sess.configured j (jobDivisor s.cfg j)
    .next (respondOk (cfgpatResults r) { d with sess := r })

end Sys2Proof.Machine
end

