-- ==== Sys2Proof/Machine/Release.lean ====
section
/-! DEFINITION. Giving the MemoryBlock back: RollBack and Release (42_mailbox_allocator.md R180,
R181), the meanings of MB_UNLOCK and MB_FREE (R175, R176), and the two ends a release can have:
a failed CFGPAT (44_session.md R218) and SHUTDOWN (R222). -/

namespace Sys2Proof.Machine

/-- After a failed CFGPAT the registers it may have written are unspecified (44_session.md R218,
60_exceptions.md R249(c)): each of the three R218 names becomes a free value (log 8). -/
def Session.unspecified (drawn : Nat) (r : Session) : Session :=
  { r with
    blockBytes := Config.freeReg drawn 0
    memHandle := Config.freeReg drawn 1
    memBus := Config.freeReg drawn 2 }

/-- The end of a CFGPAT that fails at or after its allocation: the block is given back,
MEM_STAGE is 0, the error is raised (R180, 44_session.md R218). -/
def failConfigure (e : CmdError) (s : State) : State :=
  raise e
    { s with
      sess := { s.sess.unspecified s.env.drawn with memStage := .none }
      env := s.env.popFree }

/-- INFLIGHT once SHUTDOWN has responded. A DMA error in its wait leaves the record set (20_memory.md
R82); in ShutDown, after the response, it is clear whatever SHUTDOWN reported (44_session.md R212,
70_reset_and_hazards.md R303). That it is cleared there and not before is the model's choice,
DEDUCED (log 9). Without a DMA error SHUTDOWN leaves it as it is. -/
def inflightAfterShutdown (noted : Option CmdError) (before : Bool) : Bool :=
  match noted with
  | some (.dmaError _) => false
  | _ => before

/-- The end of SHUTDOWN (44_session.md R222): close the windows in reverse order of opening, leave
the session for good, report the first error noted. -/
def finishShutdown (noted : Option CmdError) (s : State) : State :=
  let t := winClose .gpio (winClose .pwm (winClose .cm (winClose .dma s)))
  let u :=
    { t with
      sess := { t.sess with state := .shutDown, patternValid := false, memStage := .none }
      inflight := inflightAfterShutdown noted t.inflight }
  match noted with
  | some e => raise e u
  | none => respondOk [] u

/-- Where a release ends. -/
def finishRelease (r : Releaser) (s : State) : State :=
  match r with
  | .rollBack e => failConfigure e s
  | .shutdown noted => finishShutdown noted s

/-- A failed exchange during a release: RollBack ignores it (R180), SHUTDOWN notes it if nothing
is noted yet (R181, 44_session.md R222). -/
def Releaser.afterExchange (r : Releaser) (a : MboxAnswer) : Releaser :=
  match r, a with
  | .shutdown none, .failed => .shutdown (some (.alloc .mboxFailed))
  | r, _ => r

/-- MB_FREE (R176): one exchange, no word of the answer read; then the release that issued it
ends. With no release in progress nothing follows (log 18). -/
def mbFree (handle : Word) (s : State) : State :=
  let m := request tagFree [handle] s
  match s.seq with
  | .freeing r =>
    if mboxAnswer m s = .pending then mboxCall m s
    else finishRelease (r.afterExchange (mboxAnswer m s)) (mboxCall m s)
  | _ => mboxCall m s

/-- MB_UNLOCK (R175): one exchange, no word of the answer read; then, whatever was met, MEM_STAGE is 1
(10_state.md R31; log 26) and the release goes on with MB_FREE. -/
def mbUnlock (handle : Word) (s : State) : State :=
  let m := request tagUnlock [handle] s
  match s.seq with
  | .unlocking r =>
    if mboxAnswer m s = .pending then mboxCall m s
    else
      mbFree s.sess.memHandle
        { mboxCall m s with
          seq := .freeing (r.afterExchange (mboxAnswer m s))
          sess := { s.sess with memStage := .allocated } }
  | _ => mboxCall m s

/-- RollBack and Release (R180, R181): unmap, unlock, free what MEM_STAGE says is held, newest
first. UnmapPhys cannot fail (R178). MEM_STAGE goes down with each step, so that its intermediate
values exist inside SHUTDOWN too (10_state.md R31): 2 once the block is unmapped, 1 once MB_UNLOCK
was met, 0 once MB_FREE was. At which point it goes down is DEDUCED (log 26). -/
def startRelease (r : Releaser) (s : State) : State :=
  match s.sess.memStage with
  | .none => finishRelease r s
  | .allocated => mbFree s.sess.memHandle { s with seq := .freeing r }
  | .locked => mbUnlock s.sess.memHandle { s with seq := .unlocking r }
  | .mapped =>
    mbUnlock s.sess.memHandle
      { record [.unmapPhys s.sess.memVirt s.sess.blockBytes] s with
        seq := .unlocking r
        sess := { s.sess with memStage := .locked } }

end Sys2Proof.Machine
end

