-- ==== Sys2Proof/Machine/Mailbox.lean ====
section
/-! DEFINITION. Allocate (42_mailbox_allocator.md R179), the meanings of the four mailbox messages
(R173 to R176), and V2BUS (R184). A message's meaning is the firmware's turn and what the block
does with the answer, up to the next place where it waits (10_state.md R23; log 5). -/

namespace Sys2Proof.Machine

/-- Allocate's last step: map the physical range (R178, R179). A granted mapping is a fresh block
of which no byte has a value (20_memory.md R70, R86; log 11). -/
def mapBlock (j : CfgJob) (s : State) : Res :=
  let phys := trunc32 (blockPhys s.cfg s.sess 0)
  let t :=
    { s with
      env := s.env.popMap
      trace := s.trace ++ [.mapPhys phys s.sess.blockBytes s.env.nextMap] }
  match s.env.nextMap with
  | none => .next (startRelease (.rollBack (.alloc .mapFailed)) t)
  | some v =>
    finishConfigure j
      { t with seq := .idle, mem := [], sess := { t.sess with memVirt := v, memStage := .mapped } }

/-- What Allocate does with MB_LOCK's outcome (R179). -/
def afterLock (j : CfgJob) (a : MboxAnswer) (s : State) : Res :=
  match a with
  | .pending => .next s
  | .failed => .next (startRelease (.rollBack (.alloc .mboxFailed)) s)
  | .answered ws =>
    if word5 ws = 0xFFFFFFFF then .next (startRelease (.rollBack (.alloc .lockFailed)) s)
    else
      mapBlock j
        { s with seq := .idle, sess := { s.sess with memBus := word5 ws, memStage := .locked } }

/-- MB_LOCK (R174): one exchange; with no Allocate in progress nothing follows (log 18). -/
def mbLock (handle : Word) (s : State) : Res :=
  let m := request tagLock [handle] s
  match s.seq with
  | .locking j => afterLock j (mboxAnswer m s) (mboxCall m s)
  | _ => .next (mboxCall m s)

/-- What Allocate does with MB_ALLOC's outcome (R179). -/
def afterAlloc (j : CfgJob) (a : MboxAnswer) (s : State) : Res :=
  match a with
  | .pending => .next s
  | .failed => .next (startRelease (.rollBack (.alloc .mboxFailed)) s)
  | .answered ws =>
    if word5 ws = 0 then .next (startRelease (.rollBack (.alloc .allocZero)) s)
    else
      mbLock (word5 ws)
        { s with
          seq := .locking j
          sess := { s.sess with memHandle := word5 ws, memStage := .allocated } }

/-- MB_ALLOC (R173): one exchange; with no Allocate in progress nothing follows (log 18). -/
def mbAlloc (size pageAlignment cacheFlags : Word) (s : State) : Res :=
  let m := request tagAlloc [size, pageAlignment, cacheFlags] s
  match s.seq with
  | .allocating j => afterAlloc j (mboxAnswer m s) (mboxCall m s)
  | _ => .next (mboxCall m s)

/-- `Allocate(size)` (R179), issued by CFGPAT with size BLOCK_BYTES (R170). -/
def allocate (j : CfgJob) (s : State) : Res :=
  mbAlloc s.sess.blockBytes s.cfg.pageAlignment s.cfg.cacheFlags { s with seq := .allocating j }

/-- MB_ALLOC (R173). -/
def execMbAlloc (size pageAlignment cacheFlags : Word) (s : State) : Res :=
  mbAlloc size pageAlignment cacheFlags s

/-- MB_LOCK (R174). -/
def execMbLock (handle : Word) (s : State) : Res := mbLock handle s

/-- MB_UNLOCK (R175). -/
def execMbUnlock (handle : Word) (s : State) : Res := .next (mbUnlock handle s)

/-- MB_FREE (R176). -/
def execMbFree (handle : Word) (s : State) : Res := .next (mbFree handle s)

/-- V2BUS (R184). -/
def execV2bus (pointer : Word) (s : State) : Res :=
  .next (
    if s.sess.memStage ≠ .mapped then raise (.usage .wrongState) s
    else if pointer.toNat < s.sess.memVirt.toNat ∨
        s.sess.blockBytes.toNat ≤ pointer.toNat - s.sess.memVirt.toNat then
      raise (.usage .outOfBlock) s
    else respondOk [blockBus s.sess (pointer.toNat - s.sess.memVirt.toNat)] s)

end Sys2Proof.Machine
end

