-- ==== Sys2Proof/Machine/PatternEncoder.lean ====
section
/-! DEFINITION. The duty-cycle pattern encoder: REPR, CHWIDTH, ENCODE (41_pattern_encoder.md). -/

namespace Sys2Proof.Machine

/-- `code(n, w) = (2^n − 1) << (w − n)` (30_encoding.md R125). -/
def patternCode (n w : Nat) : Nat := (2 ^ n - 1) * 2 ^ (w - n)

/-- The number of ones: `max(1, roundhalfup(percent·width / 100))` (R150, R151). -/
def onesCount (percent width : Nat) : Nat := max 1 ((percent * width + 50) / 100)

/-- `representation(percent, width)` (R151). -/
def representation (percent width : Nat) : Nat := patternCode (onesCount percent width) width

/-- BitPattern: {zeroCode, oneCode, widthBits}. -/
structure BitPattern where
  zeroCode : Nat
  oneCode : Nat
  widthBits : Nat
  deriving DecidableEq, Repr

/-- The search of R153 from width `w` upward, over at most `count` widths. -/
def searchWidth (zeroPercent onePercent w : Nat) : Nat → Option BitPattern
  | 0 => none
  | count + 1 =>
    if representation zeroPercent w ≠ representation onePercent w then
      some
        { zeroCode := representation zeroPercent w
          oneCode := representation onePercent w
          widthBits := w }
    else searchWidth zeroPercent onePercent (w + 1) count

/-- `chooseWidth(zeroPercent, onePercent)` (R153): the first width of 3 to 16 at which the two
codes differ; none is the ConfigError NoWidth. -/
def chooseWidth (zeroPercent onePercent : Nat) : Option BitPattern :=
  searchWidth zeroPercent onePercent 3 14

/-- The bits of a code of width `w`, most significant first (R156). -/
def codeBits (w c : Nat) : List Bool := (List.range w).map fun k => c.testBit (w - 1 - k)

/-- The bits of a byte, most significant first (R156). -/
def byteBits (b : Byte) : List Bool := (List.range 8).map fun j => b.toNat.testBit (7 - j)

/-- The stream T of R156: for each byte, for each bit, the code it selects. -/
def bitStream (bytes : List Byte) (p : BitPattern) : List Bool :=
  (bytes.flatMap byteBits).flatMap fun bit =>
    codeBits p.widthBits (if bit then p.oneCode else p.zeroCode)

/-- The number a list of bits spells, most significant first. -/
def bitsValue (bits : List Bool) : Nat := bits.foldl (fun acc b => 2 * acc + b.toNat) 0

/-- The word whose bit 31 − t is bit t of the list; missing bits are 0 (R157). -/
def wordOfBits (bits : List Bool) : Word :=
  trunc32 (bitsValue ((bits ++ List.replicate 32 false).take 32))

/-- A stream laid into `m` words, 32 bits each (R157). -/
def packWords : Nat → List Bool → List Word
  | 0, _ => []
  | m + 1, bits => wordOfBits (bits.take 32) :: packWords m (bits.drop 32)

/-- `m = ceil(L·8·w / 32)` (R157). -/
def encodedLength (len w : Nat) : Nat := ceilDiv (len * 8 * w) 32

/-- The output words W[0..m−1] of `encode(bytes, pattern)` (R157). Stored little-endian they put
byte b of a 4-byte group at position 3 − b mod 4 (R158). -/
def encodeWords (bytes : List Byte) (p : BitPattern) : List Word :=
  packWords (encodedLength bytes.length p.widthBits) (bitStream bytes p)

/-- REPR (R152): legal in every state. -/
def execRepr (percent width : Word) (s : State) : Res :=
  .next (
    if percentOk percent && widthOk width then
      respondOk [trunc32 (representation percent.toNat width.toNat)] s
    else raise (.usage .badOperand) s)

/-- CHWIDTH (R154): legal in every state. -/
def execChwidth (zeroPercent onePercent : Word) (s : State) : Res :=
  .next (
    if percentOk zeroPercent && percentOk onePercent then
      match chooseWidth zeroPercent.toNat onePercent.toNat with
      | some p => respondOk [trunc32 p.zeroCode, trunc32 p.oneCode, trunc32 p.widthBits] s
      | none => raise .noWidth s
    else raise (.usage .badOperand) s)

/-- ENCODE (R159): legal in every state; writes no memory. -/
def execEncode (zeroCode oneCode widthBits : Word) (payload : List Byte) (s : State) : Res :=
  .next (
    if encodeOk zeroCode oneCode widthBits then
      respondOk
        (encodeWords payload
          { zeroCode := zeroCode.toNat, oneCode := oneCode.toNat, widthBits := widthBits.toNat }) s
    else raise (.usage .badOperand) s)

end Sys2Proof.Machine
end

