-- ==== Sys2Proof/Machine/SessionCommands.lean ====
section
/-! DEFINITION. The session commands that start no wait for the DMA: STAT, INIT, CFGPAT
(44_session.md R210, R214, R217). -/

namespace Sys2Proof.Machine

/-- STAT (R210). -/
def execStat (s : State) : Res := .next (respondOk [statWord s.sess s.win] s)

/-- Open windows in order; at the first refusal close those already opened, in reverse order of
opening, and name the window refused (R214). -/
def openWindows : List (WinName × Word) → State → Option WinName × State
  | [], s => (none, s)
  | (n, phys) :: rest, s =>
    if s.env.nextGrant then
      match openWindows rest (winOpen n phys s) with
      | (none, t) => (none, t)
      | (some refused, t) => (some refused, winClose n t)
    else (some n, winOpen n phys s)

/-- The four windows of a base address in INIT's order, addresses modulo 2^32 (R214,
10_state.md R32). -/
def initWindows (c : Config) (base : Word) : List (WinName × Word) :=
  [(.gpio, trunc32 (base.toNat + c.gpioOffset.toNat)),
    (.pwm, trunc32 (base.toNat + c.pwmOffset.toNat)),
    (.cm, trunc32 (base.toNat + c.cmOffset.toNat)),
    (.dma, trunc32 (base.toNat + c.dmaOffset.toNat))]

/-- INIT (R214). The index check precedes the opening, so the pin's register is inside the window
just opened and A_GPIO_ALT is performed without a further check (20_memory.md R64). After a
refusal the window records are as before the call (60_exceptions.md R248; log 20). -/
def execInit (gpioId alt ch base : Word) (s : State) : Res :=
  .next (
    if s.sess.state ≠ .uninitialized then raise (.usage .wrongState) s
    else if ¬ initOperandsOk s.cfg gpioId alt ch then raise (.usage .badOperand) s
    else if ¬ s.cfg.indicesFit then raise (.usage .badConfig) s
    else
      match openWindows (initWindows s.cfg base) s with
      | (some refused, t) => raise (.device refused) { t with win := s.win }
      | (none, t) =>
        let u := perform (.gpioAlt gpioId alt) t
        respondOk []
          { u with
            sess :=
              { u.sess with
                gpioId := gpioId
                altFn := alt
                channel := ch
                periphBase := base
                patternValid := false
                state := .configured } })

/-- What CFGPAT has computed before it allocates (R217). -/
def cfgJob (byteCount freq delay : Word) (p : BitPattern) (pb bb : Nat) : CfgJob where
  byteCount := byteCount
  freqHz := freq
  resetDelayUs := delay
  zeroCode := BitVec.ofNat 16 p.zeroCode
  oneCode := BitVec.ofNat 16 p.oneCode
  widthBits := BitVec.ofNat 5 p.widthBits
  patternBytes := trunc32 pb
  blockBytes := trunc32 bb

/-- CFGPAT (R217), up to the first place where it waits for the firmware. -/
def execCfgpat (byteCount freq delay zero one : Word) (s : State) : Res :=
  if ¬ s.sess.canConfigure then .next (raise (.usage .wrongState) s)
  else if ¬ cfgpatOperandsOk freq zero one then .next (raise (.usage .badOperand) s)
  else
    match chooseWidth zero.toNat one.toNat with
    | none => .next (raise .noWidth s)
    | some p =>
      let pb := patternBytes byteCount.toNat freq.toNat delay.toNat p.widthBits
      let bb := blockBytes s.cfg byteCount.toNat freq.toNat delay.toNat p.widthBits
      if 2 ^ 32 ≤ bb then .next (raise (.usage .badOperand) s)
      else
        allocate (cfgJob byteCount freq delay p pb bb)
          { s with sess := { s.sess with blockBytes := trunc32 bb } }

end Sys2Proof.Machine
end

