-- ==== Sys2Proof/Machine/Transfer.lean ====
section
/-! DEFINITION. The commands that may wait for the DMA: SEND, WAIT, SHUTDOWN (44_session.md R219 to
R222) and the poll of DmaWait they share (43_dma_engine.md R196). -/

namespace Sys2Proof.Machine

/-- The session's BitPattern. -/
def Session.pattern (r : Session) : BitPattern :=
  { zeroCode := r.zeroCode.toNat, oneCode := r.oneCode.toNat, widthBits := r.widthBits.toNat }

/-- Words cut or filled with zeros to exactly `n`: the whole region is rewritten (R219). -/
def fillRegion (n : Nat) (words : List Word) : List Word :=
  (words ++ List.replicate n 0).take n

/-- SEND after its wait (R219): rewrite every word of the pattern region, start the transfer. -/
def startSend (payload : List Byte) (s : State) : Res :=
  andThen
    (memWrites (patternVirt s.cfg s.sess)
      (fillRegion (s.sess.patternBytes.toNat / 4) (encodeWords payload s.sess.pattern)) s) fun a =>
  andThen (dmaStart (descBus s.sess) a) fun b =>
    .next (respondOk [] { b with sess := { b.sess with state := .sending } })

/-- SHUTDOWN after its wait (R222): disable the PWM and stop the clock where their windows are
open, then release everything. -/
def leaveSession (noted : Option CmdError) (s : State) : Res :=
  andThen (if s.win.pwm.isOpen then emit (.pwmDisable s.sess.channel) s else .next s) fun a =>
  andThen (if a.win.cm.isOpen then emit .clkStop a else .next a) fun b =>
    .next (startRelease (.shutdown noted) b)

/-- What follows DmaWait's normal return. -/
def afterWait (k : Poller) (s : State) : Res :=
  match k with
  | .wait => .next (respondOk [] { s with sess := { s.sess with state := .configured } })
  | .send payload => startSend payload { s with sess := { s.sess with state := .configured } }
  | .shutdown => leaveSession none s

/-- What follows a DMA error: WAIT and SEND raise it and stay in Sending (R219, R221), SHUTDOWN
notes it and goes on (R222). Whether the transfer is over then the spec leaves open: 10_state.md
R35 ends it, 20_memory.md R82 does not. The model's choice, DEDUCED (log 9): INFLIGHT stays set
(R82, 43_dma_engine.md R196); SHUTDOWN's end clears it (`inflightAfterShutdown`). -/
def afterWaitError (k : Poller) (debug : Word) (s : State) : Res :=
  match k with
  | .wait => .next (raise (.dmaError debug) s)
  | .send _ => .next (raise (.dmaError debug) s)
  | .shutdown => leaveSession (some (.dmaError debug)) s

/-- One poll of DmaWait (43_dma_engine.md R196): the error flag is tested first; a normal return
clears INFLIGHT (20_memory.md R82), an error by itself does not (log 9); while the channel is active
the block sleeps and polls again at its next step, with no bound (70_reset_and_hazards.md R291). -/
def dmaPoll (k : Poller) (s : State) : Res :=
  andThen (emit .dmaReadCs s) fun a =>
    let v := s.env.nextRead
    if v &&& s.cfg.periph.dmaCsError ≠ 0 then
      andThen (emit .dmaReadDebug a) fun b =>
        afterWaitError k a.env.nextRead
          { b with seq := .idle, sess := { b.sess with fault := true } }
    else if v &&& s.cfg.periph.dmaCsActive = 0 then
      afterWait k { a with seq := .idle, inflight := false }
    else .next { record [.sleep] a with seq := .polling k }

/-- SEND (R219). -/
def execSend (payload : List Byte) (s : State) : Res :=
  if ¬ s.sess.canSend then .next (raise (.usage .wrongState) s)
  else if s.sess.byteCount.toNat < payload.length then .next (raise (.usage .badOperand) s)
  else if s.sess.state = .sending then dmaPoll (.send payload) s
  else startSend payload s

/-- WAIT (R221): in Configured there is nothing to wait for and no register is read. -/
def execWait (s : State) : Res :=
  if ¬ s.sess.live then .next (raise (.usage .wrongState) s)
  else if s.sess.state = .sending then dmaPoll .wait s
  else .next (respondOk [] s)

/-- SHUTDOWN (R222): legal everywhere but in ShutDown. -/
def execShutdown (s : State) : Res :=
  if s.sess.state = .shutDown then .next (raise (.usage .wrongState) s)
  else if s.sess.state = .sending then dmaPoll .shutdown s
  else leaveSession none s

end Sys2Proof.Machine
end

