-- ==== Sys2Proof/Machine/Dispatch.lean ====
section
/-! DEFINITION. Which meaning each instruction has, one arm per constructor. -/

namespace Sys2Proof.Machine

def exec (i : Instr) (s : State) : Host.Outcome State Fault Refusal :=
  match i with
  | .stat => Sys2Proof.Machine.execStat s
  | .init gpioId alt ch base => Sys2Proof.Machine.execInit gpioId alt ch base s
  | .cfgpat byteCount freq delay zero one => Sys2Proof.Machine.execCfgpat byteCount freq delay zero one s
  | .send payload => Sys2Proof.Machine.execSend payload s
  | .wait => Sys2Proof.Machine.execWait s
  | .shutdown => Sys2Proof.Machine.execShutdown s
  | .dreset => Sys2Proof.Machine.execDreset s
  | .solve base desired => Sys2Proof.Machine.execSolve base desired s
  | .solveu base desired => Sys2Proof.Machine.execSolveu base desired s
  | .repr percent width => Sys2Proof.Machine.execRepr percent width s
  | .chwidth zero one => Sys2Proof.Machine.execChwidth zero one s
  | .encode zero one width payload => Sys2Proof.Machine.execEncode zero one width payload s
  | .bufsize byteCount freq delay width => Sys2Proof.Machine.execBufsize byteCount freq delay width s
  | .blddesc source dest length => Sys2Proof.Machine.execBlddesc source dest length s
  | .v2bus pointer => Sys2Proof.Machine.execV2bus pointer s
  | .mbAlloc size align flags => Sys2Proof.Machine.execMbAlloc size align flags s
  | .mbLock handle => Sys2Proof.Machine.execMbLock handle s
  | .mbUnlock handle => Sys2Proof.Machine.execMbUnlock handle s
  | .mbFree handle => Sys2Proof.Machine.execMbFree handle s

end Sys2Proof.Machine
end

