-- ==== Sys2Proof/Machine/Fetch.lean ====
section
/-! DEFINITION. What the next step works on: a hardware reset, a message in the firmware's hands,
the next poll, or the next command frame; and how an instruction's words are put where the next
step finds them. -/

namespace Sys2Proof.Machine

/-- Hardware reset (70_reset_and_hazards.md R280): the block's registers, windows and channels as
R50 says, a command being executed gives no response. Nothing outside the block changes (10_state.md
R51): memory, the transfer in flight, the other agents' answers (log 15). -/
def hardReset (s : State) : State :=
  { s with
    sess := Session.reset
    win := Windows.reset
    mbox := Mailbox.reset
    seq := .idle
    chan := { s.chan with busy := false, response := none, resetLine := false }
    trace := s.trace ++ [.hardReset] }

/-- Accepting a frame (30_encoding.md R100): BUSY is set, the frame leaves the channel. -/
def accept (frame : List Word) (rest : List (List Word)) (s : State) : State :=
  { s with
    chan := { s.chan with busy := true, frames := rest }
    trace := s.trace ++ [.command frame] }

/-- What a step does. -/
inductive Work where
  /-- The reset line is asserted. -/
  | reset
  /-- Run an instruction: a decoded frame, just accepted, or the message in the firmware's hands. -/
  | run (i : Instr) (t : State)
  /-- Answer a frame that decodes to no instruction. -/
  | refuse (e : DecodeError) (t : State)
  /-- Poll again for a command that waits for the DMA. -/
  | poll (k : Poller)
  /-- Nothing to do: wait for a frame (70_reset_and_hazards.md R282, 60_exceptions.md R259). -/
  | idle
  /-- The buffer in the firmware's hands is no message the block sends. -/
  | unknownMessage
  deriving DecidableEq, Repr

/-- The frame the channel offers, taken only when BUSY is 0 and no command is under way (R100). -/
def nextFrame (s : State) : Work :=
  match s.chan.frames with
  | [] => .idle
  | frame :: rest =>
    if s.seq = .idle ∧ s.chan.busy = false then
      match decodeFrame frame with
      | .ok i => .run i (accept frame rest s)
      | .error e => .refuse e (accept frame rest s)
    else .idle

/-- The next step's work: reset first, then the firmware's turn, then a poll, then a frame. -/
def nextWork (s : State) : Work :=
  if s.chan.resetLine then .reset
  else if s.mbox.waiting then
    match decodeMessage s.cfg.mboxReqCode s.mbox.buf with
    | .ok i => .run i s
    | .error _ => .unknownMessage
  else
    match s.seq with
    | .polling k => .poll k
    | .idle => nextFrame s
    | .allocating _ => .idle
    | .locking _ => .idle
    | .unlocking _ => .idle
    | .freeing _ => .idle

/-- The state with an instruction's words where the next step takes them: a frame becomes the next
one of the command channel; a message is put into the mailbox buffer, with this machine's request
code, and handed to the firmware. Whatever would go before it is cleared (log 1, 14). -/
def placeWords (s : State) (words : TableWords) : State :=
  match words with
  | .frame ws =>
    { s with
      seq := .idle
      mbox := { s.mbox with waiting := false }
      chan := { s.chan with busy := false, resetLine := false, frames := ws :: s.chan.frames } }
  | .message tag args =>
    { s with
      mbox := { buf := mailboxMessage s.cfg.mboxReqCode tag args, waiting := true }
      chan := { s.chan with resetLine := false } }

end Sys2Proof.Machine
end

