-- ==== Sys2Proof/Machine/Step.lean ====
section
/-! DEFINITION. One step of the machine, and placing an instruction for the next step. -/

namespace Sys2Proof.Machine

/-- One step of the PPG agent (10_state.md R23; log 5). -/
def step (s : State) : Host.Outcome State Fault Refusal :=
  match nextWork s with
  | .reset => .next (hardReset s)
  | .run i t => exec i t
  | .refuse e t => .next (raise (.usage (decodeCause e)) t)
  | .poll k => dmaPoll k s
  | .idle => .next s
  | .unknownMessage => .fault .unknownMessage

/-- `s` with the instruction whose bits are `w`, numbered as spec/opcode_table.json numbers them,
where the next step takes it. -/
def State.withFetchWord (s : State) (nbits w : Nat) : State := placeWords s (tableWords nbits w)

end Sys2Proof.Machine
end

