-- ==== Sys2Proof/Safety.lean ====
section
/-! DEFINITION. What counts as a safe run, in the terms the statements use: the invariant of the
block, the race watch of 70_reset_and_hazards.md R286 and R287, the end of a run (R303), the decoder
41_pattern_encoder.md R160 speaks of, and which outcomes a command may end in (60_exceptions.md
R246). Nothing here is read by the machine. -/

namespace Sys2Proof.Machine

/-! ## The invariant -/

/-- One window is open, with the length every index was checked against (20_memory.md R64). -/
def Window.ready (c : Config) (w : Window) : Prop := w.isOpen = true ∧ w.len = c.windowLen

/-- All four windows are open and every register the block may use lies inside its window. -/
structure WindowsReady (s : State) : Prop where
  gpio : s.win.gpio.ready s.cfg
  pwm : s.win.pwm.ready s.cfg
  cm : s.win.cm.ready s.cfg
  dma : s.win.dma.ready s.cfg
  indices : s.cfg.indicesFit = true
  channel : s.sess.channel.toNat < s.cfg.periph.pwmChannels

/-- No window is open. -/
structure WindowsClosed (s : State) : Prop where
  gpio : s.win.gpio.isOpen = false
  pwm : s.win.pwm.isOpen = false
  cm : s.win.cm.isOpen = false
  dma : s.win.dma.isOpen = false

/-- BitPattern and sizes of one CFGPAT: 10_state.md R29, and the facts of 44_session.md R216. -/
structure LayoutOk (c : Config) (zero one : BitVec 16) (width : BitVec 5)
    (count patBytes blkBytes : Word) : Prop where
  widthLow : 3 ≤ width.toNat
  widthHigh : width.toNat ≤ 16
  zeroFits : zero.toNat < 2 ^ width.toNat
  oneFits : one.toNat < 2 ^ width.toNat
  distinct : zero ≠ one
  /-- R29's last clause: the width is the smallest that tells some pair of percentages apart. -/
  chosen : ∃ z o : Nat, z ≤ 100 ∧ o ≤ 100 ∧ chooseWidth z o =
    some { zeroCode := zero.toNat, oneCode := one.toNat, widthBits := width.toNat }
  wholeWords : patBytes.toNat % 4 = 0
  wholePages : blkBytes.toNat % c.pageSize = 0
  fits : c.descBytes + patBytes.toNat ≤ blkBytes.toNat
  holdsData : encodedLength count.toNat width.toNat ≤ patBytes.toNat / 4

/-- The registers of a configured pattern (10_state.md R29, R30). -/
structure PatternOk (c : Config) (r : Session) : Prop where
  layout : LayoutOk c r.zeroCode r.oneCode r.widthBits r.byteCount r.patternBytes r.blockBytes
  divisorLow : 1 ≤ r.divisor.toNat
  divisorHigh : r.divisor.toNat ≤ c.maxDivisor
  scaleOne : r.scale = 1

/-- What a CFGPAT under way has computed fits together, BLOCK_BYTES among it. -/
structure JobOk (c : Config) (r : Session) (j : CfgJob) : Prop where
  layout : LayoutOk c j.zeroCode j.oneCode j.widthBits j.byteCount j.patternBytes j.blockBytes
  block : r.blockBytes = j.blockBytes

/-- Between commands, and while a command polls: MEM_STAGE is 0 or 3 and PATTERN_VALID says which
(10_state.md R24, R31); a pattern belongs to a live session and Sending needs one
(44_session.md R211). -/
structure Settled (r : Session) : Prop where
  stage : r.memStage = .none ∨ r.memStage = .mapped
  valid : r.patternValid = true ↔ r.memStage = .mapped
  live : r.patternValid = true → r.live = true
  sending : r.state = .sending → r.patternValid = true

/-- The buffer is in the firmware's hands and holds the message of `tag` and `args`. -/
def Awaits (s : State) (tag : Word) (args : List Word) : Prop :=
  s.mbox.waiting = true ∧ s.mbox.buf = request tag args s

/-- A CFGPAT is under way: no pattern yet. -/
def Configuring (r : Session) : Prop := r.state = .configured ∧ r.patternValid = false

/-- A SHUTDOWN of a session that holds a block is under way, with `noted` the error so far: its wait
is over, so that its end leaves nothing in flight, and only a wait in Sending notes a DMA error
(44_session.md R222). -/
structure Leaving (s : State) (noted : Option CmdError) : Prop where
  live : s.sess.live = true
  valid : s.sess.patternValid = true
  quiet : inflightAfterShutdown noted s.inflight = false
  cause : ∀ g, noted = some (.dmaError g) → s.sess.state = .sending

/-- The errors a release may carry: CFGPAT rolls back with an AllocError; SHUTDOWN notes a DMA
error or a failed exchange (44_session.md R222, 60_exceptions.md R242). -/
def Releaser.proper : Releaser → Bool
  | .rollBack (.alloc _) => true
  | .rollBack _ => false
  | .shutdown none => true
  | .shutdown (some (.alloc .mboxFailed)) => true
  | .shutdown (some (.dmaError _)) => true
  | .shutdown (some _) => false

/-- What a release needs besides MEM_STAGE, by who issued it. -/
def ReleaseOk (s : State) : Releaser → Prop
  | .rollBack _ => Configuring s.sess
  | .shutdown n => Leaving s n

/-- What holds at each position of the micro-sequence (10_state.md R23, R31). MEM_STAGE is 2 while
MB_UNLOCK is outstanding and 1 while MB_FREE is, inside CFGPAT and SHUTDOWN alike (log 26). -/
def SeqOk (s : State) : Prop :=
  match s.seq with
  | .idle => s.mbox.waiting = false ∧ Settled s.sess
  | .polling _ => s.mbox.waiting = false ∧ Settled s.sess ∧ s.sess.state = .sending
  | .allocating j =>
    Awaits s tagAlloc [s.sess.blockBytes, s.cfg.pageAlignment, s.cfg.cacheFlags] ∧
      Configuring s.sess ∧ s.sess.memStage = .none ∧ JobOk s.cfg s.sess j
  | .locking j =>
    Awaits s tagLock [s.sess.memHandle] ∧ Configuring s.sess ∧ s.sess.memStage = .allocated ∧
      JobOk s.cfg s.sess j
  | .unlocking r =>
    Awaits s tagUnlock [s.sess.memHandle] ∧ r.proper = true ∧ s.sess.memStage = .locked ∧
      ReleaseOk s r
  | .freeing r =>
    Awaits s tagFree [s.sess.memHandle] ∧ r.proper = true ∧ s.sess.memStage = .allocated ∧
      ReleaseOk s r

/-- The part of the invariant that holds at every point of a command: nothing about BUSY and the
position of the micro-sequence. It rules out a reset during the run (70_reset_and_hazards.md R302:
nothing in flight at the start) and configurations outside R299. -/
structure Steady (s : State) : Prop where
  config : s.cfg.valid = true
  noReset : s.chan.resetLine = false
  canonical : s.mem.wf
  inflight : s.inflight = true → s.sess.state = .sending
  opened : s.sess.live = true → WindowsReady s
  closed : s.sess.live = false → WindowsClosed s
  pattern : s.sess.patternValid = true → PatternOk s.cfg s.sess

/-- The invariant of the block. -/
structure Inv (s : State) : Prop extends Steady s where
  position : SeqOk s
  busy : s.chan.busy = decide (s.seq ≠ .idle)

/-- Where a step runs a command's meaning or polls for it: BUSY is left open, so that the states
between commands, the state a frame has just been accepted in (30_encoding.md R100) and a command
that polls are all among these. -/
structure AtCommand (s : State) : Prop where
  steady : Steady s
  notWaiting : s.mbox.waiting = false
  settled : Settled s.sess

/-! ## Waiting for a command -/

/-- The block is ready for a frame: BUSY is 0, nothing is under way, no reset is asserted. -/
structure Ready (s : State) : Prop where
  noReset : s.chan.resetLine = false
  notWaiting : s.mbox.waiting = false
  idle : s.seq = .idle
  notBusy : s.chan.busy = false

/-! ## The races of 70_reset_and_hazards.md R286, R287 -/

/-- Whether a transfer may be in flight after an event, from what the block sees and does:
A_DMA_GO starts one; A_DMA_RESET and a status word neither active nor in error end it
(20_memory.md R82). -/
def inflightAfterEvent (c : Config) (before : Bool) (e : Event) : Bool :=
  match e with
  | .action a => a.inflightAfter before
  | .winRead n i v =>
    if n = .dma ∧ i = c.dmaCs ∧ v &&& c.periph.dmaCsError = 0 ∧ v &&& c.periph.dmaCsActive = 0 then
      false
    else before
  | _ => before

/-- While a transfer may be in flight, no word of the MemoryBlock is written (R286) and the channel
is not reset (R287). -/
def undisturbed (c : Config) (inflight : Bool) : List Event → Bool
  | [] => true
  | e :: es =>
    (match e with
      | .memWrite _ _ => !inflight
      | .action .dmaReset => !inflight
      | _ => true) && undisturbed c (inflightAfterEvent c inflight e) es

/-! ## The end of a run (70_reset_and_hazards.md R303) -/

/-- The command issued last has responded: BUSY is clear, no command is under way, and the channel
holds its response. -/
structure Responded (s : State) : Prop where
  idle : s.seq = .idle
  notWaiting : s.mbox.waiting = false
  notBusy : s.chan.busy = false
  response : s.chan.response.isSome = true

/-- The run is over: the response to its last frame has been produced and BUSY is clear. A run whose
last command never responds is not over. -/
structure Over (s : State) : Prop where
  lastFrame : s.chan.frames = []
  responded : Responded s

/-- Nothing outlives the session: STATE ShutDown or still Uninitialized, no block held, all windows
closed, nothing in flight. -/
structure Clean (s : State) : Prop where
  state : s.sess.state = .shutDown ∨ s.sess.state = .uninitialized
  noBlock : s.sess.memStage = .none
  windows : WindowsClosed s
  quiet : s.inflight = false

/-- The run is over cleanly. -/
structure OverCleanly (s : State) : Prop where
  ended : Over s
  clean : Clean s

/-! ## Decoding a pattern stream (41_pattern_encoder.md R160) -/

/-- The stream read back from words: bit t is bit `31 − t mod 32` of word `t div 32`. -/
def streamOfWords (ws : List Word) : List Bool :=
  ws.flatMap fun w => (List.range 32).map fun t => w.getLsbD (31 - t)

/-- A group of bits equal to the one-code is 1, equal to the zero-code 0, else nothing. -/
def groupBit (p : BitPattern) (group : List Bool) : Option Bool :=
  if group = codeBits p.widthBits p.oneCode then some true
  else if group = codeBits p.widthBits p.zeroCode then some false
  else none

/-- The first `n` groups of `w` bits, each matched. -/
def groupsOf (p : BitPattern) : Nat → List Bool → Option (List Bool)
  | 0, _ => some []
  | n + 1, bits =>
    match groupBit p (bits.take p.widthBits), groupsOf p n (bits.drop p.widthBits) with
    | some b, some bs => some (b :: bs)
    | _, _ => none

/-- Bits assembled eight to a byte, first bit most significant. -/
def bytesOfBits : Nat → List Bool → List Byte
  | 0, _ => []
  | n + 1, bits => BitVec.ofNat 8 (bitsValue (bits.take 8)) :: bytesOfBits n (bits.drop 8)

/-- R160's decoder: the bytes a list of words encodes, if every group is one of the two codes. -/
def decodeWords (len : Nat) (p : BitPattern) (ws : List Word) : Option (List Byte) :=
  (groupsOf p (8 * len) (streamOfWords ws)).map (bytesOfBits len)

/-! ## Parts of the event history -/

/-- The events of MemWrites of consecutive words. -/
def memWriteEvents (addr : Nat) : List Word → List Event
  | [] => []
  | v :: vs => .memWrite addr v :: memWriteEvents (addr + 4) vs

/-- The events of `DmaStart(address)` (43_dma_engine.md R194, 10_state.md R47). -/
def dmaStartEvents (c : Config) (address : Word) : List Event :=
  [.action .dmaReset, .winWrite .dma c.dmaCs c.periph.dmaCsReset,
    .action .dmaClearFlags, .winWrite .dma c.dmaCs (c.periph.dmaCsInt ||| c.periph.dmaCsEnd),
    .action .dmaClearDebug, .winWrite .dma c.dmaDebug c.periph.dmaDebugErrmask,
    .action (.dmaSetCb address), .winWrite .dma c.dmaConblk address,
    .action .dmaGo,
    .winWrite .dma c.dmaCs
      (c.periph.dmaCsActive ||| c.periph.dmaCsWaitWrites ||| c.periph.dmaCsPrioMax)]

/-- The events of CFGPAT's clock and PWM set-up (44_session.md R217, 10_state.md R43 to R45). -/
def setupEvents (c : Config) (d ch : Word) : List Event :=
  [.action .clkStop, .winWrite .cm c.periph.cmCtlIndex (c.periph.cmPasswd ||| c.periph.cmKill),
    .action (.clkConfig d),
    .winWrite .cm c.periph.cmDivIndex (c.periph.cmPasswd ||| d <<< c.periph.cmDiviShift),
    .winWrite .cm c.periph.cmCtlIndex (c.periph.cmPasswd ||| c.periph.cmSrc),
    .action .clkEnable,
    .winWrite .cm c.periph.cmCtlIndex (c.periph.cmPasswd ||| c.periph.cmSrc ||| c.periph.cmEnab),
    .action (.pwmConfig ch),
    .winWrite .pwm (c.periph.pwmRngIndex.getD ch.toNat 0) 32,
    .winWrite .pwm c.periph.pwmCtlIndex c.periph.pwmClrf,
    .winWrite .pwm c.periph.pwmDmacIndex c.periph.pwmDmacValue,
    .winWrite .pwm c.periph.pwmCtlIndex
      ((c.periph.pwmUsef ||| c.periph.pwmMode ||| c.periph.pwmPwen) <<<
        c.periph.pwmChShift.getD ch.toNat 0)]

/-- The events of SHUTDOWN's PWM and clock steps, the windows open (44_session.md R222). -/
def disableEvents (c : Config) (ch : Word) : List Event :=
  [.action (.pwmDisable ch), .winWrite .pwm c.periph.pwmCtlIndex 0, .action .clkStop,
    .winWrite .cm c.periph.cmCtlIndex (c.periph.cmPasswd ||| c.periph.cmKill)]

/-- The events of MB_UNLOCK and MB_FREE of one handle (42_mailbox_allocator.md R181), each answered
or failed. -/
def releaseEvents (c : Config) (h : Word) (unlock free : MboxAnswer) : List Event :=
  mboxEvents [28, c.mboxReqCode, 0x3000e, 4, 4, h, 0] unlock ++
    mboxEvents [28, c.mboxReqCode, 0x3000f, 4, 4, h, 0] free

/-- The events of SHUTDOWN's end: the windows in reverse order of opening, the response. -/
def closingEvents (answer : List Word) : List Event :=
  [.winClose .dma, .winClose .cm, .winClose .pwm, .winClose .gpio, .response answer]

/-- The firmware has met an exchange of a message of `n` words: it failed, or it was answered with a
list of the message's length (42_mailbox_allocator.md R172). -/
def exchangeMet (n : Nat) : MboxAnswer → Bool
  | .pending => false
  | .failed => true
  | .answered ws => ws.length == n

/-- The responses among some events. -/
def responses (es : List Event) : List (List Word) :=
  es.filterMap fun e => match e with
    | .response ws => some ws
    | _ => none

/-! ## How a command may end (60_exceptions.md R246) -/

/-- The kind field of a response's status word (30_encoding.md R104). -/
def kindOf (ws : List Word) : Nat := (ws.headD 0).toNat % 16

/-- Kind and cause of a response: the status word's low and upper fields. -/
def outcomeOf (ws : List Word) : Nat × Nat := (kindOf ws, (ws.headD 0).toNat / 256)

/-- R246's table: the kinds and causes a command may end in, (0, 0) for OK. The causes every
command shares ("decode only") are those of a frame that is no command. A message responds for the
command under way (`mayEndUnderWay`). -/
def mayEndIn : Instr → List (Nat × Nat)
  | .stat => [(0, 0)]
  | .init _ _ _ _ => [(0, 0), (1, 1), (1, 2), (1, 3), (1, 4), (5, 3), (5, 4), (5, 7)]
  | .cfgpat _ _ _ _ _ => [(0, 0), (2, 1), (2, 2), (2, 3), (2, 4), (3, 1), (5, 3), (5, 4)]
  | .send _ => [(0, 0), (4, 1), (5, 3), (5, 4)]
  | .wait => [(0, 0), (4, 1), (5, 3)]
  | .shutdown => [(0, 0), (2, 4), (4, 1), (5, 3)]
  | .dreset => [(0, 0), (5, 3)]
  | .solve _ _ => [(0, 0), (5, 4)]
  | .solveu _ _ => [(0, 0), (5, 4)]
  | .repr _ _ => [(0, 0), (5, 4)]
  | .chwidth _ _ => [(0, 0), (3, 1), (5, 4)]
  | .encode _ _ _ _ => [(0, 0), (5, 4)]
  | .bufsize _ _ _ _ => [(0, 0), (5, 4)]
  | .blddesc _ _ _ => [(0, 0)]
  | .v2bus _ => [(0, 0), (5, 3), (5, 5)]
  | .mbAlloc _ _ _ => []
  | .mbLock _ => []
  | .mbUnlock _ => []
  | .mbFree _ => []

/-- What a command under way may still end in: past its checks, no UsageError. -/
def mayEndUnderWay : Seq → List (Nat × Nat)
  | .idle => []
  | .polling .wait => [(0, 0), (4, 1)]
  | .polling (.send _) => [(0, 0), (4, 1)]
  | .polling .shutdown => [(0, 0), (2, 4), (4, 1)]
  | .allocating _ => [(0, 0), (2, 1), (2, 2), (2, 3), (2, 4)]
  | .locking _ => [(0, 0), (2, 2), (2, 3), (2, 4)]
  | .unlocking (.rollBack _) => [(2, 1), (2, 2), (2, 3), (2, 4)]
  | .freeing (.rollBack _) => [(2, 1), (2, 2), (2, 3), (2, 4)]
  | .unlocking (.shutdown _) => [(0, 0), (2, 4), (4, 1)]
  | .freeing (.shutdown _) => [(0, 0), (2, 4), (4, 1)]

/-- What the next step's response may be: of the command it runs, of the command it goes on with, or
of a frame that is no command (R246's "decode only" causes; of the empty frame by log 13). -/
def mayEndNext (s : State) : List (Nat × Nat) :=
  match nextWork s with
  | .run i _ => if i.carrier = .command then mayEndIn i else mayEndUnderWay s.seq
  | .poll _ => mayEndUnderWay s.seq
  | .refuse _ _ => [(5, 1), (5, 2), (5, 6)]
  | .reset => []
  | .idle => []
  | .unknownMessage => []

/-! ## Commands under way -/

/-- The next step runs a SHUTDOWN or goes on with one. -/
def ShuttingDown (s : State) : Prop :=
  (∃ u, nextWork s = .run .shutdown u) ∨ s.seq = .polling .shutdown ∨
    (∃ n, s.seq = .unlocking (.shutdown n)) ∨ ∃ n, s.seq = .freeing (.shutdown n)

/-- What running `i` leaves of a CFGPAT that fails at or after its allocation (44_session.md R218,
60_exceptions.md R249(c)): the status word alone, MEM_STAGE 0, no pattern, no register changed but
the ones R218 names, no byte of memory, and these events. -/
def FailsCfgpat (i : Instr) (s : State) (status : Word) (es : List Event) : Prop :=
  ∃ t b m u, exec i s = .next t ∧
    t.sess = { s.sess with blockBytes := b, memHandle := m, memBus := u, memStage := .none } ∧
    t.cfg = s.cfg ∧ t.win = s.win ∧ t.mem = s.mem ∧ t.inflight = s.inflight ∧ t.seq = .idle ∧
    t.mbox.waiting = false ∧
    t.chan = { s.chan with busy := false, response := some [status] } ∧
    t.trace = s.trace ++ es ++ [.response [status]]

end Sys2Proof.Machine
end

