-- ==== Sys2Proof/Certificates/Slice0/Obligations.lean ====
section
/-! DEFINITION. The statements for the provers. Each docstring names the rules it formalises; a
clause that rests on the model's own choice names the log entry. -/

open Sys2Proof Sys2Proof.Machine

/-! ## Encodings -/

/-- Words written out from 30_encoding.md R102, R103, R110, R111 and the frames of
95_test_vectors.md decode to the instructions they stand for. -/
def Obligations.WordsOfTheSpecDecode : Prop :=
  decodeFrame [0x00000000] = .ok .stat ∧
  decodeFrame [0x00000001, 0x00000012, 0x00000002, 0x00000000, 0x3F000000] =
    .ok (.init 18 2 0 0x3F000000) ∧
  decodeFrame [0x00000002, 0x00000003, 0x000C3500, 0x00000037, 0x00000021, 0x00000042] =
    .ok (.cfgpat 3 800000 55 33 66) ∧
  decodeFrame [0x00000003, 0x00000003, 0x00AA00FF] = .ok (.send [0xFF, 0x00, 0xAA]) ∧
  decodeFrame [0x00000010, 0x1DCD6500, 0x00000064] = .ok (.solve 500000000 100) ∧
  decodeFrame [0x00000022, 0x00000003, 0x00000004, 0x00000006, 0x00000003, 0x00AA00FF] =
    .ok (.encode 4 6 3 [0xFF, 0x00, 0xAA]) ∧
  decodeFrame [0x00000030, 0xDE000020, 0x3F20C018, 0x0000001C] =
    .ok (.blddesc 0xDE000020 0x3F20C018 28) ∧
  decodeMessage 0 [36, 0, 0x3000c, 12, 12, 4096, 4096, 0xC, 0] = .ok (.mbAlloc 4096 4096 0xC) ∧
  decodeMessage 0 [28, 0, 0x3000d, 4, 4, 5, 0] = .ok (.mbLock 5)

/-- Every well-formed instruction is read back from its own words, with every operand at every
value, for every request code (30_encoding.md R102, R103, R110, R111). -/
def Obligations.DecodeReadsBackEveryEncoding : Prop :=
  ∀ (code : Word) (i : Instr), i.wf = true → decode code i.carrier (encode code i) = .ok i

/-- R106: the three verdicts in their order, each answered with its UsageError and nothing else;
any other frame decodes. `n` and the payload mark are R102's. The second half takes in the empty
frame, which R100 rules out and the model answers BadFrame by its own choice (log 13); the history
is the model's own field (log 7). -/
def Obligations.IllegalFramesAreRefusedInOrder : Prop :=
  (∀ (c : Word) (ws : List Word),
    (c.toNat / 256 ≠ 0 → decodeFrame (c :: ws) = .error .reservedBits) ∧
    (c.toNat / 256 = 0 →
      c.toNat ∉ [0x00, 0x01, 0x02, 0x03, 0x04, 0x05, 0x06, 0x10, 0x11, 0x20, 0x21, 0x22, 0x23,
        0x30, 0x31] → decodeFrame (c :: ws) = .error .illegalOpcode) ∧
    (∀ n payload, opcodeInfo c.toNat = some (n, payload) →
      (ws.length ≠ n + (if payload then ceilDiv (ws.headD 0).toNat 4 else 0) →
        decodeFrame (c :: ws) = .error .badFrame) ∧
      (ws.length = n + (if payload then ceilDiv (ws.headD 0).toNat 4 else 0) →
        ∃ i, decodeFrame (c :: ws) = .ok i))) ∧
  (∀ (s : State) (f : List Word) (rest : List (List Word)) (e : DecodeError),
    Ready s → s.chan.frames = f :: rest → decodeFrame f = .error e →
    ∃ cause t, step s = .next t ∧
      (e = .reservedBits → cause = 2) ∧ (e = .illegalOpcode → cause = 1) ∧
      (e = .badFrame → cause = 6) ∧
      t = { s with
        chan := { s.chan with frames := rest, response := some [trunc32 (cause * 256 + 5)] }
        trace := s.trace ++ [.command f, .response [trunc32 (cause * 256 + 5)]] })

/-! ## Steps -/

/-- A step runs the decoded instruction: the frame leaves the channel, BUSY is set (R100), the
frame is recorded (log 7), and the step is `exec` there. -/
def Obligations.StepRunsTheDecodedFrame : Prop :=
  ∀ (s : State) (f : List Word) (rest : List (List Word)) (i : Instr),
    Ready s → s.chan.frames = f :: rest → decodeFrame f = .ok i →
    step s = exec i { s with
      chan := { s.chan with busy := true, frames := rest }
      trace := s.trace ++ [.command f] }

/-- A step runs the message that is in the firmware's hands (42_mailbox_allocator.md R172). -/
def Obligations.StepRunsTheMailboxMessage : Prop :=
  ∀ (s : State) (i : Instr), s.chan.resetLine = false → s.mbox.waiting = true →
    i.carrier = .mailbox → s.mbox.buf = encode s.cfg.mboxReqCode i → step s = exec i s

/-- With no frame offered the block waits and holds its state (70_reset_and_hazards.md R282,
60_exceptions.md R259). -/
def Obligations.IdleBlockHoldsItsState : Prop :=
  ∀ (s : State), Ready s → s.chan.frames = [] → step s = .next s

/-- While BUSY no frame is accepted (10_state.md R36). -/
def Obligations.BusyBlockAcceptsNoFrame : Prop :=
  ∀ (s t : State), s.chan.busy = true → step s = .next t → t.chan.frames = s.chan.frames

/-- One response per command (30_encoding.md R100): a step without reset adds no response, or one,
which is then the channel's response, and BUSY is clear. -/
def Obligations.OneResponseEndsACommand : Prop :=
  ∀ (s t : State), s.chan.resetLine = false → step s = .next t →
    ∃ es, t.trace = s.trace ++ es ∧
      ((responses es = [] ∧ t.chan.response = s.chan.response) ∨
        ∃ ws, responses es = [ws] ∧ t.chan.response = some ws ∧ t.chan.busy = false ∧
          t.seq = .idle)

/-! ## The clock divisor calculator -/

/-- SOLVE (R141) in every state and for all operands: BadOperand for desiredHz = 0; else the
smallest power of ten for which the quotient fits, the quotient raised to 1, the scale in two
words, and nothing else changes. -/
def Obligations.SolveFindsSmallestScale : Prop :=
  ∀ (s : State) (base desired : Word),
    (desired = 0 →
      exec (.solve base desired) s = .next (respond [0x00000405] s)) ∧
    (desired ≠ 0 →
      ∃ k ≤ 10,
        (∀ j < k, s.cfg.maxDivisor < base.toNat / (desired.toNat * 10 ^ j)) ∧
        base.toNat / (desired.toNat * 10 ^ k) ≤ s.cfg.maxDivisor ∧
        exec (.solve base desired) s =
          .next (respond [0, trunc32 (max 1 (base.toNat / (desired.toNat * 10 ^ k))),
            trunc32 (10 ^ k), trunc32 (10 ^ k / 2 ^ 32)] s))

/-- R145: both solvers answer a divisor from 1 to MAX_DIVISOR, for every configuration with
MAX_DIVISOR ≥ 1. -/
def Obligations.DivisorsStayInRange : Prop :=
  ∀ (s : State) (base desired : Word), 1 ≤ s.cfg.maxDivisor → desired ≠ 0 →
    (∃ d lo hi : Word, exec (.solve base desired) s = .next (respond [0, d, lo, hi] s) ∧
      1 ≤ d.toNat ∧ d.toNat ≤ s.cfg.maxDivisor) ∧
    (∃ d : Word, exec (.solveu base desired) s = .next (respond [0, d] s) ∧
      1 ≤ d.toNat ∧ d.toNat ≤ s.cfg.maxDivisor)

/-- SOLVEU (R142, R143): BadOperand for desiredHz = 0; else the quotient clamped. -/
def Obligations.SolveuClampsQuotient : Prop :=
  ∀ (s : State) (base desired : Word), 1 ≤ s.cfg.maxDivisor →
    (desired = 0 → exec (.solveu base desired) s = .next (respond [0x00000405] s)) ∧
    (desired ≠ 0 →
      ∃ d : Word, exec (.solveu base desired) s = .next (respond [0, d] s) ∧
        (s.cfg.maxDivisor < base.toNat / desired.toNat → d.toNat = s.cfg.maxDivisor) ∧
        (base.toNat / desired.toNat = 0 → d.toNat = 1) ∧
        (1 ≤ base.toNat / desired.toNat → base.toNat / desired.toNat ≤ s.cfg.maxDivisor →
          d.toNat = base.toNat / desired.toNat))

/-! ## The pattern encoder -/

/-- REPR (R151, R152): the top n bits of the width are 1, n the rounded share and at least 1;
anything out of range is BadOperand. -/
def Obligations.ReprSetsTopBits : Prop :=
  ∀ (s : State) (percent width : Word),
    (percent.toNat ≤ 100 → 3 ≤ width.toNat → width.toNat ≤ 16 →
      ∃ v : Word, exec (.repr percent width) s = .next (respond [0, v] s) ∧
        ∀ i : Nat, v.getLsbD i =
          (decide (i < width.toNat) &&
            decide (width.toNat ≤ i + max 1 ((percent.toNat * width.toNat + 50) / 100)))) ∧
    (100 < percent.toNat ∨ width.toNat < 3 ∨ 16 < width.toNat →
      exec (.repr percent width) s = .next (respond [0x00000405] s))

/-- CHWIDTH (R153, R154): the first width of 3 to 16 whose two codes differ, with those codes;
ConfigError NoWidth where there is none; BadOperand above 100. -/
def Obligations.ChwidthTakesFirstDistinguishingWidth : Prop :=
  ∀ (s : State) (zero one : Word),
    (100 < zero.toNat ∨ 100 < one.toNat →
      exec (.chwidth zero one) s = .next (respond [0x00000405] s)) ∧
    (zero.toNat ≤ 100 → one.toNat ≤ 100 →
      (∀ w, 3 ≤ w → w ≤ 16 → representation zero.toNat w = representation one.toNat w) →
      exec (.chwidth zero one) s = .next (respond [0x00000103] s)) ∧
    (∀ w, zero.toNat ≤ 100 → one.toNat ≤ 100 → 3 ≤ w → w ≤ 16 →
      representation zero.toNat w ≠ representation one.toNat w →
      (∀ v, 3 ≤ v → v < w → representation zero.toNat v = representation one.toNat v) →
      exec (.chwidth zero one) s =
        .next (respond [0, trunc32 (representation zero.toNat w),
          trunc32 (representation one.toNat w), trunc32 w] s))

/-- ENCODE (R156, R157, R159): BadOperand for a bad pattern; else `ceil(8·L·w / 32)` words in
which bit `31 − t mod 32` of word `t div 32` is stream bit t: for t below `8·L·w` bit
`w − 1 − t mod w` of the code selected by bit `7 − (t div w) mod 8` of byte `t div (8·w)`, and 0
beyond. -/
def Obligations.EncodeLaysStreamIntoWords : Prop :=
  ∀ (s : State) (z o width : Word) (payload : List Byte),
    (width.toNat < 3 ∨ 16 < width.toNat ∨ 2 ^ width.toNat ≤ z.toNat ∨ 2 ^ width.toNat ≤ o.toNat ∨
        z = o →
      exec (.encode z o width payload) s = .next (respond [0x00000405] s)) ∧
    (3 ≤ width.toNat → width.toNat ≤ 16 → z.toNat < 2 ^ width.toNat → o.toNat < 2 ^ width.toNat →
      z ≠ o →
      ∃ ws : List Word, exec (.encode z o width payload) s = .next (respond (0 :: ws) s) ∧
        ws.length = ceilDiv (payload.length * 8 * width.toNat) 32 ∧
        (∀ t < payload.length * 8 * width.toNat,
          (ws.getD (t / 32) 0).getLsbD (31 - t % 32) =
            (if (payload.getD (t / (8 * width.toNat)) 0).getLsbD (7 - t / width.toNat % 8) then o
              else z).getLsbD (width.toNat - 1 - t % width.toNat)) ∧
        (∀ t, payload.length * 8 * width.toNat ≤ t → t < 32 * ws.length →
          (ws.getD (t / 32) 0).getLsbD (31 - t % 32) = false))

/-- The round trip of R160: decoding the emitted words by matching groups against the two codes
gives the bytes back, for every pattern with two distinct codes below 2^w. -/
def Obligations.EncodedBytesDecodeBack : Prop :=
  ∀ (payload : List Byte) (p : BitPattern),
    1 ≤ p.widthBits → p.zeroCode < 2 ^ p.widthBits → p.oneCode < 2 ^ p.widthBits →
    p.zeroCode ≠ p.oneCode →
    decodeWords payload.length p (encodeWords payload p) = some payload

/-- Byte placement (R158): byte b of the packed stream, bits 8b to 8b+7, first bit most
significant, lies at offset `(b − b mod 4) + (3 − b mod 4)` once the words are stored. -/
def Obligations.PackedBytesAreReversedInGroups : Prop :=
  ∀ (m : Memory) (a b : Nat) (payload : List Byte) (p : BitPattern),
    b < 4 * (encodeWords payload p).length →
    Memory.read (Memory.writeWords m a (encodeWords payload p)) (a + ((b - b % 4) + (3 - b % 4))) =
      some (BitVec.ofNat 8 (bitsValue
        (((bitStream payload p ++ List.replicate 32 false).drop (8 * b)).take 8)))

/-! ## Sizes and descriptor -/

/-- BUFSIZE (R215, R216): the smallest multiple of 4 that holds every data and gap bit, and the
smallest multiple of the page size that holds it and the descriptor; BadOperand for a width out
of range or a block of 2^32 bytes or more. -/
def Obligations.BufsizeRoundsUp : Prop :=
  ∀ (s : State) (n f r w : Word), s.cfg.valid = true →
    ∃ pb bb : Nat,
      pb % 4 = 0 ∧ n.toNat * 8 * w.toNat + r.toNat * f.toNat * w.toNat / 1000000 ≤ 8 * pb ∧
      (∀ p, p % 4 = 0 →
        n.toNat * 8 * w.toNat + r.toNat * f.toNat * w.toNat / 1000000 ≤ 8 * p → pb ≤ p) ∧
      bb % s.cfg.pageSize = 0 ∧ pb + s.cfg.descBytes ≤ bb ∧
      (∀ b, b % s.cfg.pageSize = 0 → pb + s.cfg.descBytes ≤ b → bb ≤ b) ∧
      (3 ≤ w.toNat → w.toNat ≤ 16 → bb < 2 ^ 32 →
        exec (.bufsize n f r w) s = .next (respond [0, trunc32 pb, trunc32 bb] s)) ∧
      (w.toNat < 3 ∨ 16 < w.toNat ∨ 2 ^ 32 ≤ bb →
        exec (.bufsize n f r w) s = .next (respond [0x00000405] s))

/-- The facts of R216: the block has at least a page, the region holds data and gap, and the
encoder's output for up to n bytes fits the region. -/
def Obligations.EncodedDataFitsItsRegion : Prop :=
  ∀ (c : Config) (n f r w : Nat) (payload : List Byte) (p : BitPattern), c.valid = true →
    payload.length ≤ n → p.widthBits = w →
    c.pageSize ≤ blockBytes c n f r w ∧
    c.descBytes + patternBytes n f r w ≤ blockBytes c n f r w ∧
    dataBits n w + gapBits f r w ≤ patternBytes n f r w * 8 ∧
    (encodeWords payload p).length ≤ patternBytes n f r w / 4

/-- BLDDESC (R191, R192, 30_encoding.md R120, R121): any three words give DESC_BYTES / 4 words,
the five TI masks ORed, the operands, and zeros; nothing else changes. -/
def Obligations.BlddescBuildsOneShotDescriptor : Prop :=
  ∀ (s : State) (source dest len : Word), s.cfg.valid = true →
    ∃ d : List Word, exec (.blddesc source dest len) s = .next (respond (0 :: d) s) ∧
      d.length = s.cfg.descBytes / 4 ∧
      d.getD 0 0 = s.cfg.periph.tiNoWideBursts ||| s.cfg.periph.tiWaitResp |||
        s.cfg.periph.tiDestDreq ||| s.cfg.periph.tiPermapPwm ||| s.cfg.periph.tiSrcInc ∧
      d.getD 1 0 = source ∧ d.getD 2 0 = dest ∧ d.getD 3 0 = len ∧
      ∀ j, 4 ≤ j → d.getD j 0 = 0

/-! ## Addresses -/

/-- V2BUS (R184): WrongState without a mapped block, OutOfBlock outside it, else
`MEM_BUS + (pointer − MEM_VIRT)` modulo 2^32, so MEM_VIRT gives MEM_BUS. -/
def Obligations.V2busTranslatesInsideTheBlock : Prop :=
  ∀ (s : State) (p : Word),
    (s.sess.memStage ≠ .mapped → exec (.v2bus p) s = .next (respond [0x00000305] s)) ∧
    (s.sess.memStage = .mapped →
      p.toNat < s.sess.memVirt.toNat ∨ s.sess.memVirt.toNat + s.sess.blockBytes.toNat ≤ p.toNat →
      exec (.v2bus p) s = .next (respond [0x00000505] s)) ∧
    (s.sess.memStage = .mapped → s.sess.memVirt.toNat ≤ p.toNat →
      p.toNat < s.sess.memVirt.toNat + s.sess.blockBytes.toNat →
      exec (.v2bus p) s = .next (respond [0, s.sess.memBus + (p - s.sess.memVirt)] s)) ∧
    (s.sess.memStage = .mapped → 0 < s.sess.blockBytes.toNat →
      exec (.v2bus s.sess.memVirt) s = .next (respond [0, s.sess.memBus] s))

/-- MemWrite and MemRead (20_memory.md R70, R71): the word written is the word read, its bits
`[8r+7 : 8r]` stand at `addr + r`, and every other byte is as before. -/
def Obligations.MemoryBlockIsLittleEndian : Prop :=
  ∀ (s t : State) (addr : Nat) (v : Word), memWrite addr v s = .next t →
    memRead addr t = some v ∧
    (∀ r < 4, Memory.read t.mem (addr + r) = some (v.extractLsb' (8 * r) 8)) ∧
    (∀ c, c < addr ∨ addr + 4 ≤ c → Memory.read t.mem c = Memory.read s.mem c)

/-! ## STAT and the pure functions -/

/-- STAT (R210): every bit of the result word, in every state; nothing else changes. -/
def Obligations.StatReportsEveryFlag : Prop :=
  ∀ (s : State), ∃ v : Word, exec .stat s = .next (respond [0, v] s) ∧
    (v.getLsbD 0 = decide (s.sess.state = .configured ∨ s.sess.state = .shutDown)) ∧
    (v.getLsbD 1 = decide (s.sess.state = .sending ∨ s.sess.state = .shutDown)) ∧
    v.getLsbD 2 = s.sess.patternValid ∧ v.getLsbD 3 = s.sess.fault ∧
    (v.getLsbD 4 = decide (s.sess.memStage = .allocated ∨ s.sess.memStage = .mapped)) ∧
    (v.getLsbD 5 = decide (s.sess.memStage = .locked ∨ s.sess.memStage = .mapped)) ∧
    v.getLsbD 6 = false ∧ v.getLsbD 7 = false ∧
    v.getLsbD 8 = s.win.gpio.isOpen ∧ v.getLsbD 9 = s.win.pwm.isOpen ∧
    v.getLsbD 10 = s.win.cm.isOpen ∧ v.getLsbD 11 = s.win.dma.isOpen ∧
    ∀ i, 12 ≤ i → v.getLsbD i = false

/-- The pure commands (R146, R165, 43_dma_engine.md R192, 44_session.md R216) answer the same in
every state of one configuration, and change nothing but the response. -/
def Obligations.PureCommandsReadNoRegister : Prop :=
  ∀ (c : Config) (i : Instr),
    ((∃ b d, i = .solve b d) ∨ (∃ b d, i = .solveu b d) ∨ (∃ p w, i = .repr p w) ∨
      (∃ z o, i = .chwidth z o) ∨ (∃ z o w p, i = .encode z o w p) ∨
      (∃ n f r w, i = .bufsize n f r w) ∨ (∃ a b l, i = .blddesc a b l)) →
    ∃ ws, ∀ s : State, s.cfg = c → exec i s = .next (respond ws s)

/-! ## INIT -/

/-- INIT (R214) with its four windows granted: the windows in order, addresses modulo 2^32, the
pin's register read, modified and written, the operands kept, STATE Configured. -/
def Obligations.InitOpensASession : Prop :=
  ∀ (s : State) (g a ch base v : Word) (gs : List Bool) (rs : List Word),
    s.sess.state = .uninitialized → ch.toNat < s.cfg.periph.pwmChannels →
    a.toNat < 2 ^ s.cfg.periph.gpioFselBits → 4 * s.cfg.gpioIndex g + 4 ≤ s.cfg.windowLen →
    s.cfg.indicesFit = true → s.env.grants = true :: true :: true :: true :: gs →
    s.env.reads = v :: rs →
    ∃ t, exec (.init g a ch base) s = .next t ∧
      t.sess = { s.sess with
        gpioId := g, altFn := a, channel := ch, periphBase := base, patternValid := false,
        state := .configured } ∧
      t.win =
        { gpio := { phys := base + s.cfg.gpioOffset, len := s.cfg.windowLen, isOpen := true }
          pwm := { phys := base + s.cfg.pwmOffset, len := s.cfg.windowLen, isOpen := true }
          cm := { phys := base + s.cfg.cmOffset, len := s.cfg.windowLen, isOpen := true }
          dma := { phys := base + s.cfg.dmaOffset, len := s.cfg.windowLen, isOpen := true } } ∧
      t.cfg = s.cfg ∧ t.mem = s.mem ∧ t.mbox = s.mbox ∧ t.inflight = s.inflight ∧
      t.seq = .idle ∧ t.chan = { s.chan with busy := false, response := some [0] } ∧
      t.trace = s.trace ++
        [.winOpen .gpio (base + s.cfg.gpioOffset) s.cfg.windowLen true,
          .winOpen .pwm (base + s.cfg.pwmOffset) s.cfg.windowLen true,
          .winOpen .cm (base + s.cfg.cmOffset) s.cfg.windowLen true,
          .winOpen .dma (base + s.cfg.dmaOffset) s.cfg.windowLen true,
          .action (.gpioAlt g a), .winRead .gpio (s.cfg.gpioIndex g) v,
          .winWrite .gpio (s.cfg.gpioIndex g)
            ((v &&& ~~~(s.cfg.gpioMask <<< s.cfg.gpioShift g)) |||
              ((a &&& s.cfg.gpioMask) <<< s.cfg.gpioShift g)),
          .response [0]]

/-- INIT with window number k refused (R214, 60_exceptions.md R241): DeviceError with that
window's cause; the k windows already opened are closed in reverse order; registers and window
records as before (R248; the records by log 20). -/
def Obligations.InitClosesWhatItOpened : Prop :=
  ∀ (s : State) (g a ch base : Word) (k : Nat) (gs : List Bool),
    s.sess.state = .uninitialized → ch.toNat < s.cfg.periph.pwmChannels →
    a.toNat < 2 ^ s.cfg.periph.gpioFselBits → 4 * s.cfg.gpioIndex g + 4 ≤ s.cfg.windowLen →
    s.cfg.indicesFit = true → k < 4 → s.env.grants = List.replicate k true ++ false :: gs →
    ∃ t, exec (.init g a ch base) s = .next t ∧
      t.sess = s.sess ∧ t.win = s.win ∧ t.cfg = s.cfg ∧ t.mem = s.mem ∧ t.mbox = s.mbox ∧
      t.inflight = s.inflight ∧ t.seq = .idle ∧
      t.chan = { s.chan with
        busy := false, response := some [trunc32 ((k + 1) * 256 + 1)] } ∧
      t.trace = s.trace ++
        ((initWindows s.cfg base).take k).map
          (fun w => Event.winOpen w.1 w.2 s.cfg.windowLen true) ++
        (((initWindows s.cfg base).drop k).take 1).map
          (fun w => Event.winOpen w.1 w.2 s.cfg.windowLen false) ++
        ((initWindows s.cfg base).take k).reverse.map (fun w => Event.winClose w.1) ++
        [.response [trunc32 ((k + 1) * 256 + 1)]]

/-- INIT's checks in R214's order: state, operands, configuration; a command refused by them has
touched nothing (R213). -/
def Obligations.InitChecksBeforeItTouches : Prop :=
  ∀ (s : State) (g a ch base : Word),
    (s.sess.state ≠ .uninitialized →
      exec (.init g a ch base) s = .next (respond [0x00000305] s)) ∧
    (s.sess.state = .uninitialized →
      s.cfg.periph.pwmChannels ≤ ch.toNat ∨ 2 ^ s.cfg.periph.gpioFselBits ≤ a.toNat ∨
        s.cfg.windowLen < 4 * s.cfg.gpioIndex g + 4 →
      exec (.init g a ch base) s = .next (respond [0x00000405] s)) ∧
    (s.sess.state = .uninitialized → ch.toNat < s.cfg.periph.pwmChannels →
      a.toNat < 2 ^ s.cfg.periph.gpioFselBits → 4 * s.cfg.gpioIndex g + 4 ≤ s.cfg.windowLen →
      s.cfg.indicesFit = false →
      exec (.init g a ch base) s = .next (respond [0x00000705] s))

/-! ## CFGPAT -/

/-- CFGPAT's refusals (R217) in order: state, percentages and frequency, no width, block size.
Nothing else changes. -/
def Obligations.CfgpatRefusesBeforeItAllocates : Prop :=
  ∀ (s : State) (n f r z o : Word),
    (s.sess.state ≠ .configured ∨ s.sess.patternValid = true →
      exec (.cfgpat n f r z o) s = .next (respond [0x00000305] s)) ∧
    (s.sess.state = .configured → s.sess.patternValid = false →
      (100 < z.toNat ∨ 100 < o.toNat ∨ f = 0 →
        exec (.cfgpat n f r z o) s = .next (respond [0x00000405] s)) ∧
      (z.toNat ≤ 100 → o.toNat ≤ 100 → f ≠ 0 →
        (chooseWidth z.toNat o.toNat = none →
          exec (.cfgpat n f r z o) s = .next (respond [0x00000103] s)) ∧
        (∀ p, chooseWidth z.toNat o.toNat = some p →
          2 ^ 32 ≤ blockBytes s.cfg n.toNat f.toNat r.toNat p.widthBits →
          exec (.cfgpat n f r z o) s = .next (respond [0x00000405] s))))

/-- CFGPAT (R217) with both exchanges answered and the mapping granted: the registers, the
response, the zero-filled region, the descriptor, no other byte of the block, and the whole order
of its effects (R213, 42_mailbox_allocator.md R179; the block's old bytes are gone by log 11). -/
def Obligations.CfgpatPreparesAPattern : Prop :=
  ∀ (s : State) (n f r z o v : Word) (p : BitPattern) (a1 a2 : List Word)
    (as : List MboxAnswer) (ms : List (Option Word)),
    s.cfg.valid = true → WindowsReady s → s.sess.state = .configured →
    s.sess.patternValid = false → z.toNat ≤ 100 → o.toNat ≤ 100 → f ≠ 0 →
    chooseWidth z.toNat o.toNat = some p →
    blockBytes s.cfg n.toNat f.toNat r.toNat p.widthBits < 2 ^ 32 →
    s.env.mbox = .answered a1 :: .answered a2 :: as → a1.length = 9 → a2.length = 7 →
    a1.getD 5 0 ≠ 0 → a2.getD 5 0 ≠ 0xFFFFFFFF → s.env.maps = some v :: ms →
    ∃ t, exec (.cfgpat n f r z o) s = .next t ∧
      (let pb := trunc32 (patternBytes n.toNat f.toNat r.toNat p.widthBits)
      let bb := trunc32 (blockBytes s.cfg n.toNat f.toNat r.toNat p.widthBits)
      let d := trunc32 (solveUnscaled s.cfg.maxDivisor s.cfg.baseClockHz.toNat
        (p.widthBits * f.toNat))
      let h := a1.getD 5 0
      let bus := a2.getD 5 0
      let desc := buildDescriptor s.cfg (trunc32 (bus.toNat + s.cfg.descBytes))
        (s.sess.periphBase + s.cfg.pwmOffset + s.cfg.pwmFifoOffset) pb
      let zeros := List.replicate (pb.toNat / 4) (0 : Word)
      let answer := [0, trunc32 p.zeroCode, trunc32 p.oneCode, trunc32 p.widthBits, d, pb, bb, bus]
      t.sess = { s.sess with
        byteCount := n, freqHz := f, resetDelayUs := r, zeroCode := BitVec.ofNat 16 p.zeroCode,
        oneCode := BitVec.ofNat 16 p.oneCode, widthBits := BitVec.ofNat 5 p.widthBits,
        divisor := d, scale := 1, patternBytes := pb, blockBytes := bb, memHandle := h,
        memBus := bus, memVirt := v, memStage := .mapped, patternValid := true } ∧
      (∀ j < s.cfg.descBytes / 4, memRead (v.toNat + 4 * j) t = some (desc.getD j 0)) ∧
      (∀ q < pb.toNat / 4, memRead (v.toNat + s.cfg.descBytes + 4 * q) t = some 0) ∧
      (∀ a, a < v.toNat ∨ v.toNat + s.cfg.descBytes + pb.toNat ≤ a →
        Memory.read t.mem a = none) ∧
      t.cfg = s.cfg ∧ t.win = s.win ∧ t.inflight = s.inflight ∧ t.seq = .idle ∧
      t.mbox.waiting = false ∧
      t.chan = { s.chan with busy := false, response := some answer } ∧
      t.trace = s.trace ++
        [.mbox mboxIoctl [36, s.cfg.mboxReqCode, 0x3000c, 12, 12, bb, trunc32 s.cfg.pageSize,
            s.cfg.cacheFlags, 0] (some a1),
          .mbox mboxIoctl [28, s.cfg.mboxReqCode, 0x3000d, 4, 4, h, 0] (some a2),
          .mapPhys (bus &&& ~~~s.cfg.uncachedAliasMask) bb (some v)] ++
        memWriteEvents (v.toNat + s.cfg.descBytes) zeros ++
        [.action .clkStop,
          .winWrite .cm s.cfg.periph.cmCtlIndex (s.cfg.periph.cmPasswd ||| s.cfg.periph.cmKill),
          .action (.clkConfig d),
          .winWrite .cm s.cfg.periph.cmDivIndex
            (s.cfg.periph.cmPasswd ||| d <<< s.cfg.periph.cmDiviShift),
          .winWrite .cm s.cfg.periph.cmCtlIndex (s.cfg.periph.cmPasswd ||| s.cfg.periph.cmSrc),
          .action .clkEnable,
          .winWrite .cm s.cfg.periph.cmCtlIndex
            (s.cfg.periph.cmPasswd ||| s.cfg.periph.cmSrc ||| s.cfg.periph.cmEnab),
          .action (.pwmConfig s.sess.channel),
          .winWrite .pwm (s.cfg.periph.pwmRngIndex.getD s.sess.channel.toNat 0) 32,
          .winWrite .pwm s.cfg.periph.pwmCtlIndex s.cfg.periph.pwmClrf,
          .winWrite .pwm s.cfg.periph.pwmDmacIndex s.cfg.periph.pwmDmacValue,
          .winWrite .pwm s.cfg.periph.pwmCtlIndex
            ((s.cfg.periph.pwmUsef ||| s.cfg.periph.pwmMode ||| s.cfg.periph.pwmPwen) <<<
              s.cfg.periph.pwmChShift.getD s.sess.channel.toNat 0)] ++
        memWriteEvents v.toNat desc ++ [.response answer])

/-- CFGPAT whose allocation fails (42_mailbox_allocator.md R179, R180, 44_session.md R218,
60_exceptions.md R252): the AllocError of the failing place; everything acquired given back newest
first whether or not the roll-back's own exchanges fail; no peripheral register and no byte of
memory written, no pattern, MEM_STAGE 0; only the registers R218 names may differ. In the step that
runs CFGPAT, and in a later one where the failing exchange was not answered at first. -/
def Obligations.CfgpatRollsBackItsAllocation : Prop :=
  ∀ (s : State) (n f r z o size align flags : Word) (p : BitPattern) (j : CfgJob)
    (a1 a2 : List Word) (x y : MboxAnswer) (as : List MboxAnswer) (ms : List (Option Word)),
    s.sess.state = .configured → s.sess.patternValid = false →
    a1.length = 9 → a2.length = 7 → exchangeMet 7 x = true → exchangeMet 7 y = true →
    (let code := s.cfg.mboxReqCode
    let fromLock := fun (i : Instr) (bb h : Word) (before : List MboxAnswer) (es : List Event) =>
      let lock := [28, code, 0x3000d, 4, 4, h, 0]
      let free := mboxEvents [28, code, 0x3000f, 4, 4, h, 0] x
      (s.env.mbox = before ++ .failed :: x :: as →
        FailsCfgpat i s 0x00000402 (es ++ [.mbox mboxIoctl lock none] ++ free)) ∧
      (s.env.mbox = before ++ .answered a2 :: x :: as → a2.getD 5 0 = 0xFFFFFFFF →
        FailsCfgpat i s 0x00000202 (es ++ [.mbox mboxIoctl lock (some a2)] ++ free)) ∧
      (s.env.mbox = before ++ .answered a2 :: x :: y :: as → a2.getD 5 0 ≠ 0xFFFFFFFF →
        s.env.maps = none :: ms →
        FailsCfgpat i s 0x00000302
          (es ++ [.mbox mboxIoctl lock (some a2),
            .mapPhys (a2.getD 5 0 &&& ~~~s.cfg.uncachedAliasMask) bb none] ++
            releaseEvents s.cfg h x y))
    let fromAlloc := fun (i : Instr) (bb : Word) (alloc : List Word) =>
      (s.env.mbox = .failed :: as →
        FailsCfgpat i s 0x00000402 [.mbox mboxIoctl alloc none]) ∧
      (s.env.mbox = .answered a1 :: as → a1.getD 5 0 = 0 →
        FailsCfgpat i s 0x00000102 [.mbox mboxIoctl alloc (some a1)]) ∧
      (a1.getD 5 0 ≠ 0 →
        fromLock i bb (a1.getD 5 0) [.answered a1] [.mbox mboxIoctl alloc (some a1)])
    let bb := trunc32 (blockBytes s.cfg n.toNat f.toNat r.toNat p.widthBits)
    (s.sess.memStage = .none → z.toNat ≤ 100 → o.toNat ≤ 100 → f ≠ 0 →
      chooseWidth z.toNat o.toNat = some p →
      blockBytes s.cfg n.toNat f.toNat r.toNat p.widthBits < 2 ^ 32 →
      fromAlloc (.cfgpat n f r z o) bb
        [36, code, 0x3000c, 12, 12, bb, trunc32 s.cfg.pageSize, s.cfg.cacheFlags, 0]) ∧
    (s.seq = .allocating j → s.sess.memStage = .none →
      fromAlloc (.mbAlloc size align flags) s.sess.blockBytes
        [36, code, 0x3000c, 12, 12, size, align, flags, 0]) ∧
    (s.seq = .locking j → s.sess.memStage = .allocated →
      fromLock (.mbLock s.sess.memHandle) s.sess.blockBytes s.sess.memHandle [] []))

/-! ## Mailbox messages -/

/-- The four messages (R173 to R176, 30_encoding.md R110, R111), each one exchange: the request's
words, the answer's words in the buffer, and nothing else changes where no command is under way
(log 18). -/
def Obligations.EachMessageIsOneExchange : Prop :=
  ∀ (s : State) (size align flags h : Word) (a b : List Word) (as : List MboxAnswer),
    s.seq = .idle → a.length = 9 → b.length = 7 →
    (s.env.mbox = .answered a :: as →
      exec (.mbAlloc size align flags) s = .next { s with
        mbox := { buf := a, waiting := false }
        env := s.env.popMbox
        trace := s.trace ++
          [.mbox mboxIoctl [36, s.cfg.mboxReqCode, 0x3000c, 12, 12, size, align, flags, 0] (some a)] }) ∧
    (s.env.mbox = .answered b :: as →
      (exec (.mbLock h) s = .next { s with
        mbox := { buf := b, waiting := false }
        env := s.env.popMbox
        trace := s.trace ++ [.mbox mboxIoctl [28, s.cfg.mboxReqCode, 0x3000d, 4, 4, h, 0] (some b)] }) ∧
      (exec (.mbUnlock h) s = .next { s with
        mbox := { buf := b, waiting := false }
        env := s.env.popMbox
        trace := s.trace ++ [.mbox mboxIoctl [28, s.cfg.mboxReqCode, 0x3000e, 4, 4, h, 0] (some b)] }) ∧
      (exec (.mbFree h) s = .next { s with
        mbox := { buf := b, waiting := false }
        env := s.env.popMbox
        trace := s.trace ++ [.mbox mboxIoctl [28, s.cfg.mboxReqCode, 0x3000f, 4, 4, h, 0] (some b)] }))

/-- MB_ALLOC for a CFGPAT under way (R173, R179): word 5 is the handle, MEM_STAGE 1, and MB_LOCK of
that handle is handed to the firmware, which here has not answered it yet. -/
def Obligations.AllocAnswerIsLockedNext : Prop :=
  ∀ (s : State) (size align flags : Word) (j : CfgJob) (a : List Word) (as : List MboxAnswer),
    s.seq = .allocating j → s.env.mbox = .answered a :: .pending :: as → a.length = 9 →
    a.getD 5 0 ≠ 0 →
    ∃ t, exec (.mbAlloc size align flags) s = .next t ∧
      t.sess = { s.sess with memHandle := a.getD 5 0, memStage := .allocated } ∧
      t.seq = .locking j ∧
      t.mbox = { buf := [28, s.cfg.mboxReqCode, 0x3000d, 4, 4, a.getD 5 0, 0], waiting := true } ∧
      t.cfg = s.cfg ∧ t.win = s.win ∧ t.mem = s.mem ∧ t.inflight = s.inflight ∧ t.chan = s.chan ∧
      t.trace = s.trace ++
        [.mbox mboxIoctl [36, s.cfg.mboxReqCode, 0x3000c, 12, 12, size, align, flags, 0] (some a)]

/-- MB_LOCK for a CFGPAT under way (R174, R179, 44_session.md R217): with a bus address and a granted
mapping of its physical range the CFGPAT ends OK, with the registers of R217, the divisor among
them, the zero-filled region, the descriptor, no other byte of the block (its old bytes are gone by
log 11), and the rest of its effects in their order. -/
def Obligations.LockAnswerIsMappedNext : Prop :=
  ∀ (s : State) (j : CfgJob) (v : Word) (a : List Word) (as : List MboxAnswer)
    (ms : List (Option Word)),
    Inv s → s.seq = .locking j → s.env.mbox = .answered a :: as → a.length = 7 →
    a.getD 5 0 ≠ 0xFFFFFFFF → s.env.maps = some v :: ms →
    ∃ t, exec (.mbLock s.sess.memHandle) s = .next t ∧
      (let d := trunc32 (solveUnscaled s.cfg.maxDivisor s.cfg.baseClockHz.toNat
        (j.widthBits.toNat * j.freqHz.toNat))
      let bus := a.getD 5 0
      let desc := buildDescriptor s.cfg (trunc32 (bus.toNat + s.cfg.descBytes))
        (s.sess.periphBase + s.cfg.pwmOffset + s.cfg.pwmFifoOffset) j.patternBytes
      let answer := [0, j.zeroCode.setWidth 32, j.oneCode.setWidth 32, j.widthBits.setWidth 32, d,
        j.patternBytes, s.sess.blockBytes, bus]
      t.sess = { s.sess with
        byteCount := j.byteCount, freqHz := j.freqHz, resetDelayUs := j.resetDelayUs,
        zeroCode := j.zeroCode, oneCode := j.oneCode, widthBits := j.widthBits, divisor := d,
        scale := 1, patternBytes := j.patternBytes, memBus := bus, memVirt := v,
        memStage := .mapped, patternValid := true } ∧
      (∀ q < s.cfg.descBytes / 4, memRead (v.toNat + 4 * q) t = some (desc.getD q 0)) ∧
      (∀ q < j.patternBytes.toNat / 4,
        memRead (v.toNat + s.cfg.descBytes + 4 * q) t = some 0) ∧
      (∀ c, c < v.toNat ∨ v.toNat + s.cfg.descBytes + j.patternBytes.toNat ≤ c →
        Memory.read t.mem c = none) ∧
      t.cfg = s.cfg ∧ t.win = s.win ∧ t.inflight = s.inflight ∧ t.seq = .idle ∧
      t.mbox.waiting = false ∧
      t.chan = { s.chan with busy := false, response := some answer } ∧
      t.trace = s.trace ++
        [.mbox mboxIoctl [28, s.cfg.mboxReqCode, 0x3000d, 4, 4, s.sess.memHandle, 0] (some a),
          .mapPhys (bus &&& ~~~s.cfg.uncachedAliasMask) s.sess.blockBytes (some v)] ++
        memWriteEvents (v.toNat + s.cfg.descBytes)
          (List.replicate (j.patternBytes.toNat / 4) 0) ++
        setupEvents s.cfg d s.sess.channel ++ memWriteEvents v.toNat desc ++ [.response answer])

/-- MB_UNLOCK and MB_FREE for a release under way (R175, R176, R180, R181), each answered or failed.
For a SHUTDOWN every step is made whatever the exchanges meet, the windows are closed, and a failed
exchange is the outcome if nothing was noted before (44_session.md R222). For a CFGPAT's roll-back
the error that caused it is raised whatever the exchanges meet (R252). The premise's clause on
MEM_STAGE inside a release (2 while MB_UNLOCK is outstanding, 1 while MB_FREE is) rests on log 26. -/
def Obligations.ReleaseGoesOnPastFailures : Prop :=
  ∀ (s : State) (n : Option CmdError) (c : AllocCause) (x y : MboxAnswer) (as : List MboxAnswer),
    Inv s → exchangeMet 7 x = true → exchangeMet 7 y = true →
    (let unlock := Instr.mbUnlock s.sess.memHandle
    let free := Instr.mbFree s.sess.memHandle
    let freeEvents := mboxEvents [28, s.cfg.mboxReqCode, 0x3000f, 4, 4, s.sess.memHandle, 0] y
    let both := releaseEvents s.cfg s.sess.memHandle x y
    let ends := fun (i : Instr) (failed : Prop) (es : List Event) =>
      ∃ t w, exec i s = .next t ∧ Responded t ∧ Clean t ∧
        t.sess = { s.sess with state := .shutDown, patternValid := false, memStage := .none } ∧
        t.cfg = s.cfg ∧ t.mem = s.mem ∧
        t.chan = { s.chan with busy := false, response := some w } ∧
        (∀ e, n = some e → w = e.response) ∧ (n = none → failed → w = [0x00000402]) ∧
        (n = none → ¬ failed → w = [0]) ∧
        t.trace = s.trace ++ es ++ closingEvents w
    (s.seq = .unlocking (.shutdown n) → s.env.mbox = x :: y :: as →
      ends unlock (x = .failed ∨ y = .failed) both) ∧
    (s.seq = .freeing (.shutdown n) → s.env.mbox = y :: as →
      ends free (y = .failed) freeEvents) ∧
    (s.seq = .unlocking (.rollBack (.alloc c)) → s.env.mbox = x :: y :: as →
      FailsCfgpat unlock s (trunc32 (c.code * 256 + 2)) both) ∧
    (s.seq = .freeing (.rollBack (.alloc c)) → s.env.mbox = y :: as →
      FailsCfgpat free s (trunc32 (c.code * 256 + 2)) freeEvents))

/-- A message the firmware has not answered (R172, 70_reset_and_hazards.md R291): nothing moves but
the count of draws; the buffer stays in its hands, and the run is not over (R303). -/
def Obligations.UnansweredMessageWaits : Prop :=
  ∀ (s : State) (i : Instr) (as : List MboxAnswer), i.carrier = .mailbox →
    s.mbox = { buf := encode s.cfg.mboxReqCode i, waiting := true } →
    s.env.mbox = .pending :: as → s.chan.resetLine = false →
    step s = .next { s with env := s.env.popMbox } ∧ ¬ Over { s with env := s.env.popMbox }

/-! ## SEND, WAIT and the poll -/

/-- SEND (R219) from Configured, or from Sending when a poll finds the transfer ended, the first one
or a later one: the whole region is the encoded words and zeros to its end, every other byte as
before, then DmaStart of MEM_BUS (43_dma_engine.md R194), STATE Sending, BUSY clear. -/
def Obligations.SendRewritesRegionAndStarts : Prop :=
  ∀ (s : State) (payload : List Byte), AtCommand s →
    payload.length ≤ s.sess.byteCount.toNat →
    (let words := encodeWords payload
      { zeroCode := s.sess.zeroCode.toNat, oneCode := s.sess.oneCode.toNat,
        widthBits := s.sess.widthBits.toNat }
    let n := s.sess.patternBytes.toNat / 4
    let base := s.sess.memVirt.toNat + s.cfg.descBytes
    let sent := fun (run : Res) (es : List Event) =>
      ∃ t, run = .next t ∧
        t.sess = { s.sess with state := .sending } ∧ t.inflight = true ∧
        (∀ q < n, memRead (base + 4 * q) t = some (words.getD q 0)) ∧
        (∀ a, a < base ∨ base + s.sess.patternBytes.toNat ≤ a →
          Memory.read t.mem a = Memory.read s.mem a) ∧
        t.cfg = s.cfg ∧ t.win = s.win ∧ t.mbox = s.mbox ∧ t.seq = .idle ∧
        t.chan = { s.chan with busy := false, response := some [0] } ∧
        t.trace = s.trace ++ es ++
          memWriteEvents base (words ++ List.replicate (n - words.length) 0) ++
          dmaStartEvents s.cfg s.sess.memBus ++ [.response [0]]
    (s.sess.state = .configured → s.sess.patternValid = true → sent (exec (.send payload) s) []) ∧
    (∀ v vs, s.sess.state = .sending → s.env.reads = v :: vs →
      v &&& s.cfg.periph.dmaCsError = 0 → v &&& s.cfg.periph.dmaCsActive = 0 →
      (let poll : List Event := [.action .dmaReadCs, .winRead .dma s.cfg.dmaCs v]
      sent (exec (.send payload) s) poll ∧
      (s.seq = .polling (.send payload) → sent (step s) poll))))

/-- SEND's own refusal (R219): longer than BYTE_COUNT is BadOperand, and nothing is touched. -/
def Obligations.SendRefusesALongBuffer : Prop :=
  ∀ (s : State) (payload : List Byte),
    (s.sess.state = .configured ∧ s.sess.patternValid = true) ∨ s.sess.state = .sending →
    s.sess.byteCount.toNat < payload.length →
    exec (.send payload) s = .next (respond [0x00000405] s)

/-- WAIT (R221): in Configured OK without a register access; in Sending, when a poll finds the
transfer ended, the first one or a later one, STATE Configured and INFLIGHT clear (20_memory.md
R82). -/
def Obligations.WaitEndsTheTransfer : Prop :=
  ∀ (s : State),
    (s.sess.state = .configured → exec .wait s = .next (respond [0] s)) ∧
    (∀ v vs, WindowsReady s → s.sess.state = .sending → s.env.reads = v :: vs →
      v &&& s.cfg.periph.dmaCsError = 0 → v &&& s.cfg.periph.dmaCsActive = 0 →
      (let t := respond [0] { s with
        sess := { s.sess with state := .configured }
        seq := .idle
        inflight := false
        env := s.env.popRead
        trace := s.trace ++ [.action .dmaReadCs, .winRead .dma s.cfg.dmaCs v] }
      exec .wait s = .next t ∧
      (s.chan.resetLine = false → s.mbox.waiting = false → s.seq = .polling .wait →
        step s = .next t)))

/-- A DMA error (43_dma_engine.md R196, 60_exceptions.md R244): whatever the active flag shows, at
the first poll or at a later one, WAIT and SEND report the debug word, set FAULT, stay in Sending
and write no memory. That INFLIGHT stays as it was is by log 9. -/
def Obligations.DmaErrorIsReportedWithDebugWord : Prop :=
  ∀ (s : State) (i : Instr) (payload : List Byte) (v g : Word) (vs : List Word),
    WindowsReady s → s.sess.state = .sending → s.env.reads = v :: g :: vs →
    v &&& s.cfg.periph.dmaCsError ≠ 0 →
    (let t := respond [0x00000104, g] { s with
      sess := { s.sess with fault := true }
      env := s.env.popRead.popRead
      trace := s.trace ++
        [.action .dmaReadCs, .winRead .dma s.cfg.dmaCs v,
          .action .dmaReadDebug, .winRead .dma s.cfg.dmaDebug g] }
    (payload.length ≤ s.sess.byteCount.toNat → i = .wait ∨ i = .send payload →
      exec i s = .next t) ∧
    (s.chan.resetLine = false → s.mbox.waiting = false →
      s.seq = .polling .wait ∨ s.seq = .polling (.send payload) → step s = .next t))

/-- While the channel is active and not in error (R196, 70_reset_and_hazards.md R291) the command
sleeps and goes on polling: no register, no byte, no response changes, with no bound, and the run is
not over (R303). -/
def Obligations.ActiveChannelKeepsTheCommandPolling : Prop :=
  ∀ (s : State) (k : Poller) (v : Word) (vs : List Word),
    WindowsReady s → s.env.reads = v :: vs → v &&& s.cfg.periph.dmaCsError = 0 →
    v &&& s.cfg.periph.dmaCsActive ≠ 0 →
    (let t := { s with
      seq := .polling k
      env := s.env.popRead
      trace := s.trace ++ [.action .dmaReadCs, .winRead .dma s.cfg.dmaCs v, .sleep] }
    ¬ Over t ∧
    (s.chan.resetLine = false → s.mbox.waiting = false → s.seq = .polling k → step s = .next t) ∧
    (s.sess.state = .sending →
      (k = .wait → exec .wait s = .next t) ∧ (k = .shutdown → exec .shutdown s = .next t) ∧
      (∀ payload, k = .send payload → payload.length ≤ s.sess.byteCount.toNat →
        exec (.send payload) s = .next t)))

/-! ## SHUTDOWN and DRESET -/

/-- SHUTDOWN (R222) with every exchange answered: the PWM and the clock, the block given back
newest first, the windows closed in reverse order of opening, the registers it writes and no
others, no byte of memory, BUSY clear. From Uninitialized nothing is touched. From Sending the
transfer may be found ended at the first poll or at a later one. -/
def Obligations.ShutdownReleasesInReverseOrder : Prop :=
  ∀ (s : State) (a b : List Word) (as : List MboxAnswer), AtCommand s →
    a.length = 7 → b.length = 7 →
    (let release : List Event := .unmapPhys s.sess.memVirt s.sess.blockBytes ::
      releaseEvents s.cfg s.sess.memHandle (.answered a) (.answered b)
    let disable := disableEvents s.cfg s.sess.channel
    let ends := fun (run : Res) (es : List Event) =>
      ∃ t, run = .next t ∧ Responded t ∧ Clean t ∧
        t.sess = { s.sess with state := .shutDown, patternValid := false, memStage := .none } ∧
        t.cfg = s.cfg ∧ t.mem = s.mem ∧
        t.chan = { s.chan with busy := false, response := some [0] } ∧ t.trace = s.trace ++ es
    (s.sess.state = .uninitialized → ends (exec .shutdown s) [.response [0]]) ∧
    (s.sess.state = .configured → s.sess.patternValid = false →
      ends (exec .shutdown s) (disable ++ closingEvents [0])) ∧
    (s.sess.state = .configured → s.sess.patternValid = true →
      s.env.mbox = .answered a :: .answered b :: as →
      ends (exec .shutdown s) (disable ++ release ++ closingEvents [0])) ∧
    (∀ v vs, s.sess.state = .sending → s.env.mbox = .answered a :: .answered b :: as →
      s.env.reads = v :: vs → v &&& s.cfg.periph.dmaCsError = 0 →
      v &&& s.cfg.periph.dmaCsActive = 0 →
      (let es := [.action .dmaReadCs, .winRead .dma s.cfg.dmaCs v] ++ disable ++ release ++
        closingEvents [0]
      ends (exec .shutdown s) es ∧ (s.seq = .polling .shutdown → ends (step s) es))))

/-- SHUTDOWN whose wait may meet a DMA error and whose exchanges may each fail (R222): every step is
made all the same, in its order; FAULT is set by a DMA error; the first error is the one reported,
OK if there is none. INFLIGHT is clear after a DMA error by log 9. -/
def Obligations.ShutdownReportsItsFirstError : Prop :=
  ∀ (s : State) (x y : MboxAnswer) (as : List MboxAnswer), AtCommand s →
    exchangeMet 7 x = true → exchangeMet 7 y = true → s.env.mbox = x :: y :: as →
    (let steps := disableEvents s.cfg s.sess.channel ++
      .unmapPhys s.sess.memVirt s.sess.blockBytes :: releaseEvents s.cfg s.sess.memHandle x y
    let ends := fun (run : Res) (fault : Bool) (noted : Option (List Word)) (es : List Event) =>
      ∃ t w, run = .next t ∧ Responded t ∧ Clean t ∧
        t.sess = { s.sess with
          state := .shutDown, patternValid := false, memStage := .none, fault := fault } ∧
        t.cfg = s.cfg ∧ t.mem = s.mem ∧
        t.chan = { s.chan with busy := false, response := some w } ∧
        (∀ e, noted = some e → w = e) ∧
        (noted = none → x = .failed ∨ y = .failed → w = [0x00000402]) ∧
        (noted = none → x ≠ .failed → y ≠ .failed → w = [0]) ∧
        t.trace = s.trace ++ es ++ steps ++ closingEvents w
    (s.sess.state = .configured → s.sess.patternValid = true →
      ends (exec .shutdown s) s.sess.fault none []) ∧
    (∀ v vs, s.sess.state = .sending → s.env.reads = v :: vs →
      v &&& s.cfg.periph.dmaCsError = 0 → v &&& s.cfg.periph.dmaCsActive = 0 →
      (let poll : List Event := [.action .dmaReadCs, .winRead .dma s.cfg.dmaCs v]
      ends (exec .shutdown s) s.sess.fault none poll ∧
      (s.seq = .polling .shutdown → ends (step s) s.sess.fault none poll))) ∧
    (∀ v g vs, s.sess.state = .sending → s.env.reads = v :: g :: vs →
      v &&& s.cfg.periph.dmaCsError ≠ 0 →
      (let poll : List Event := [.action .dmaReadCs, .winRead .dma s.cfg.dmaCs v,
        .action .dmaReadDebug, .winRead .dma s.cfg.dmaDebug g]
      ends (exec .shutdown s) true (some [0x00000104, g]) poll ∧
      (s.seq = .polling .shutdown → ends (step s) true (some [0x00000104, g]) poll))))

/-- What a SHUTDOWN that responded leaves (R303), whatever it reported, at once or after waiting:
nothing outlives the session, and if its frame was the last the run is over cleanly. INFLIGHT is
clear after a DMA error by log 9. -/
def Obligations.RespondedShutdownEndsCleanly : Prop :=
  ∀ (s t : State),
    (let left := Responded t ∧ Clean t ∧ (t.chan.frames = [] → OverCleanly t)
    (AtCommand s → s.sess.state ≠ .shutDown → exec .shutdown s = .next t → t.seq = .idle → left) ∧
    (Inv s → ShuttingDown s → step s = .next t → t.seq = .idle → left))

/-- DRESET (R198): one register write; Sending becomes Configured; INFLIGHT is cleared by
A_DMA_RESET (20_memory.md R82). -/
def Obligations.DresetResetsTheChannel : Prop :=
  ∀ (s : State), WindowsReady s → s.sess.state = .configured ∨ s.sess.state = .sending →
    exec .dreset s = .next (respond [0] { s with
      sess := { s.sess with state := .configured }
      inflight := false
      trace := s.trace ++
        [.action .dmaReset, .winWrite .dma s.cfg.dmaCs s.cfg.periph.dmaCsReset] })

/-! ## Legality, errors, transitions -/

/-- R211's table of refusals, ShutDown's row (R223) among it: WrongState, and nothing changes.
V2BUS is refused by MEM_STAGE (V2busTranslatesInsideTheBlock). -/
def Obligations.WrongStateIsRefused : Prop :=
  ∀ (s : State),
    (s.sess.state ≠ .uninitialized →
      ∀ g a ch base, exec (.init g a ch base) s = .next (respond [0x00000305] s)) ∧
    (¬ (s.sess.state = .configured ∧ s.sess.patternValid = false) →
      ∀ n f r z o, exec (.cfgpat n f r z o) s = .next (respond [0x00000305] s)) ∧
    (¬ (s.sess.state = .configured ∧ s.sess.patternValid = true) → s.sess.state ≠ .sending →
      ∀ payload, exec (.send payload) s = .next (respond [0x00000305] s)) ∧
    (s.sess.state ≠ .configured → s.sess.state ≠ .sending →
      exec .wait s = .next (respond [0x00000305] s) ∧
      exec .dreset s = .next (respond [0x00000305] s)) ∧
    (s.sess.state = .shutDown → exec .shutdown s = .next (respond [0x00000305] s))

/-- R246: the kinds and causes a command can end in, HardwareFaultError from Sending only; for the
command itself from any state, and for the step that ends it, whichever that is, under the
invariant. The step clause takes in a step that answers an empty frame, which R100 rules out and the
model answers BadFrame by its own choice (log 13); the history is the model's own field (log 7). -/
def Obligations.ErrorKindsOfEachCommand : Prop :=
  ∀ (s t : State) (es : List Event) (ws : List Word), t.trace = s.trace ++ es →
    ws ∈ responses es →
    (∀ i : Instr, i.carrier = .command → exec i s = .next t →
      outcomeOf ws ∈ mayEndIn i ∧ (kindOf ws = 4 → s.sess.state = .sending)) ∧
    (Inv s → step s = .next t →
      outcomeOf ws ∈ mayEndNext s ∧ (kindOf ws = 4 → s.sess.state = .sending))

/-- R245: "A UsageError never changes any state and never causes an access on any other channel". -/
def Obligations.UsageErrorsChangeNothing : Prop :=
  ∀ (i : Instr) (s t : State) (es : List Event) (ws : List Word),
    i.carrier = .command → exec i s = .next t → t.trace = s.trace ++ es →
    ws ∈ responses es → kindOf ws = 5 → t = respond ws s

/-- R212: which command may move STATE where, and that a command ending in an error, SHUTDOWN
apart, leaves STATE as it was: for the command itself from any state, and for every step under the
invariant, the later ones of a command that waits among them. -/
def Obligations.StateMovesOnlyAsListed : Prop :=
  ∀ (s t : State) (es : List Event), t.trace = s.trace ++ es →
    (let moves := fun (runs : Instr → Prop) (waited : Prop) (shutsDown : Prop) =>
      (t.sess.state ≠ s.sess.state →
        (s.sess.state = .uninitialized ∧ t.sess.state = .configured ∧
          ∃ g a ch base, runs (.init g a ch base)) ∨
        (s.sess.state = .configured ∧ t.sess.state = .sending ∧ ∃ payload, runs (.send payload)) ∨
        (s.sess.state = .sending ∧ t.sess.state = .configured ∧
          (runs .wait ∨ runs .dreset ∨ waited)) ∨
        (t.sess.state = .shutDown ∧ shutsDown)) ∧
      (¬ shutsDown → (∃ ws ∈ responses es, kindOf ws ≠ 0) → t.sess.state = s.sess.state)
    (∀ i : Instr, i.carrier = .command → exec i s = .next t →
      moves (fun k => i = k) False (i = .shutdown)) ∧
    (Inv s → step s = .next t →
      moves (fun k => ∃ u, nextWork s = .run k u) (s.seq = .polling .wait) (ShuttingDown s)))

/-- ShutDown is terminal (10_state.md R22, 44_session.md R223): no step leaves it but a reset. -/
def Obligations.ShutDownIsTerminal : Prop :=
  ∀ (s t : State), Inv s → s.sess.state = .shutDown → step s = .next t →
    t.sess.state = .shutDown

/-- FAULT is sticky (10_state.md R25): no step clears it but a reset, from any state. -/
def Obligations.FaultIsSticky : Prop :=
  ∀ (s t : State), s.chan.resetLine = false → s.sess.fault = true → step s = .next t →
    t.sess.fault = true

/-! ## Frames -/

/-- Only CFGPAT and SEND write the MemoryBlock (20_memory.md R69, R70, R78): for every other
command, MB_UNLOCK and MB_FREE, every byte of memory is as before. -/
def Obligations.OtherCommandsLeaveMemory : Prop :=
  ∀ (i : Instr) (s t : State), exec i s = .next t →
    (∀ n f r z o, i ≠ .cfgpat n f r z o) → (∀ payload, i ≠ .send payload) →
    (∀ a b c, i ≠ .mbAlloc a b c) → (∀ h, i ≠ .mbLock h) → t.mem = s.mem

/-- The register frame of the transfer commands (44_session.md R219, R221, 43_dma_engine.md R198):
SEND, WAIT and DRESET write no register but STATE and FAULT, no window record and not the mailbox. -/
def Obligations.TransferCommandsKeepRegisters : Prop :=
  ∀ (i : Instr) (s t : State), (∃ payload, i = .send payload) ∨ i = .wait ∨ i = .dreset →
    exec i s = .next t →
    t.sess = { s.sess with state := t.sess.state, fault := t.sess.fault } ∧
      t.win = s.win ∧ t.mbox = s.mbox ∧ t.cfg = s.cfg

/-- The register frame of SHUTDOWN (R222): no register but STATE, PATTERN_VALID, MEM_STAGE and
FAULT; a window record keeps its base and length. -/
def Obligations.ShutdownKeepsOtherRegisters : Prop :=
  ∀ (s t : State), exec .shutdown s = .next t →
    t.sess = { s.sess with
      state := t.sess.state, patternValid := t.sess.patternValid, memStage := t.sess.memStage,
      fault := t.sess.fault } ∧
    (∀ n, (t.win.get n).phys = (s.win.get n).phys ∧ (t.win.get n).len = (s.win.get n).len) ∧
    t.cfg = s.cfg

/-- Who makes a mailbox exchange (R182): of the commands only CFGPAT and SHUTDOWN. -/
def Obligations.OnlyTwoCommandsUseTheMailbox : Prop :=
  ∀ (i : Instr) (s t : State), i.carrier = .command → exec i s = .next t →
    (∀ n f r z o, i ≠ .cfgpat n f r z o) → i ≠ .shutdown →
    t.mbox = s.mbox ∧
      ∃ es, t.trace = s.trace ++ es ∧ ∀ c m a, Event.mbox c m a ∉ es

/-- The configuration is fixed (70_reset_and_hazards.md R283) and the history only grows (log 7),
for every step from every state. -/
def Obligations.HistoryGrowsConfigurationStays : Prop :=
  ∀ (s t : State), step s = .next t → t.cfg = s.cfg ∧ ∃ es, t.trace = s.trace ++ es

/-! ## Reset and the invariants -/

/-- The state after reset (10_state.md R50): the values R50 gives. -/
def Obligations.ResetGivesInitialState : Prop :=
  State.reset.sess.state = .uninitialized ∧ State.reset.sess.patternValid = false ∧
  State.reset.sess.fault = false ∧ State.reset.sess.memStage = .none ∧
  WindowsClosed State.reset ∧ State.reset.chan.busy = false

/-- A hardware reset at any time (R280, 10_state.md R51): R50's values, no response of the command
being executed, nothing outside the block changed. -/
def Obligations.HardwareResetIsOneStep : Prop :=
  ∀ (s : State), s.chan.resetLine = true →
    ∃ t, step s = .next t ∧ t.sess.state = .uninitialized ∧ t.sess.patternValid = false ∧
      t.sess.fault = false ∧ t.sess.memStage = .none ∧ WindowsClosed t ∧ t.chan.busy = false ∧
      t.seq = .idle ∧ t.mbox.waiting = false ∧ t.chan.response = none ∧
      t.chan.frames = s.chan.frames ∧ t.mem = s.mem ∧ t.inflight = s.inflight ∧ t.env = s.env ∧
      t.cfg = s.cfg ∧ t.trace = s.trace ++ [.hardReset]

/-- The invariant holds after reset. -/
def Obligations.ResetMeetsTheInvariant : Prop := Inv State.reset

/-- Headline: from every state that meets the invariant a step answers a next state, never a fault
or a refusal, and the invariant holds there. So no register access goes to a closed window or
outside it (20_memory.md R64), no MemWrite outside the block (R70), MEM_STAGE and PATTERN_VALID
agree between commands (10_state.md R24, R31), the intermediate values of MEM_STAGE exist inside
CFGPAT and SHUTDOWN (R31), the pattern registers keep R29 and R30, and INFLIGHT is set in Sending
only (44_session.md R212). Clauses that rest on the model's choices: log 9, 10, 21 and 26. -/
def Obligations.EveryStepKeepsTheInvariant : Prop :=
  ∀ (s : State), Inv s → ∃ t, step s = .next t ∧ Inv t

/-- Headline: no step but DRESET's writes the MemoryBlock or resets the channel while a transfer may
be in flight (70_reset_and_hazards.md R286, R287), from every state that meets the invariant. -/
def Obligations.NoStepDisturbsATransfer : Prop :=
  ∀ (s t : State), Inv s → step s = .next t → (∀ u, nextWork s ≠ .run .dreset u) →
    ∃ es, t.trace = s.trace ++ es ∧ undisturbed s.cfg s.inflight es = true

/-- Every step keeps memory's canonical form, from every state. -/
def Obligations.EveryStepKeepsMemoryCanonical : Prop :=
  ∀ (s t : State), s.mem.wf → step s = .next t → t.mem.wf
end

