-- ==== Sys2Proof/Laws/State.lean ====
section
/-! SUPPORT. One lemma per field per update of the state: what each named operation leaves as it
was, and what it writes. -/

namespace Sys2Proof.Machine

variable (s : State)

/-! ### record -/

@[simp] theorem record_cfg (es : List Event) : (record es s).cfg = s.cfg := rfl

@[simp] theorem record_sess (es : List Event) : (record es s).sess = s.sess := rfl

@[simp] theorem record_win (es : List Event) : (record es s).win = s.win := rfl

@[simp] theorem record_mem (es : List Event) : (record es s).mem = s.mem := rfl

@[simp] theorem record_mbox (es : List Event) : (record es s).mbox = s.mbox := rfl

@[simp] theorem record_seq (es : List Event) : (record es s).seq = s.seq := rfl

@[simp] theorem record_inflight (es : List Event) : (record es s).inflight = s.inflight := rfl

@[simp] theorem record_chan (es : List Event) : (record es s).chan = s.chan := rfl

@[simp] theorem record_env (es : List Event) : (record es s).env = s.env := rfl

@[simp] theorem record_trace (es : List Event) : (record es s).trace = s.trace ++ es := rfl

/-! ### respond -/

@[simp] theorem respond_cfg (words : List Word) : (respond words s).cfg = s.cfg := rfl

@[simp] theorem respond_sess (words : List Word) : (respond words s).sess = s.sess := rfl

@[simp] theorem respond_win (words : List Word) : (respond words s).win = s.win := rfl

@[simp] theorem respond_mem (words : List Word) : (respond words s).mem = s.mem := rfl

@[simp] theorem respond_mbox (words : List Word) : (respond words s).mbox = s.mbox := rfl

@[simp] theorem respond_seq (words : List Word) : (respond words s).seq = .idle := rfl

@[simp] theorem respond_inflight (words : List Word) : (respond words s).inflight = s.inflight := rfl

@[simp] theorem respond_chan (words : List Word) : (respond words s).chan = { s.chan with busy := false, response := some words } := rfl

@[simp] theorem respond_env (words : List Word) : (respond words s).env = s.env := rfl

@[simp] theorem respond_trace (words : List Word) : (respond words s).trace = s.trace ++ [.response words] := rfl

/-! ### respondOk -/

@[simp] theorem respondOk_cfg (results : List Word) : (respondOk results s).cfg = s.cfg := rfl

@[simp] theorem respondOk_sess (results : List Word) : (respondOk results s).sess = s.sess := rfl

@[simp] theorem respondOk_win (results : List Word) : (respondOk results s).win = s.win := rfl

@[simp] theorem respondOk_mem (results : List Word) : (respondOk results s).mem = s.mem := rfl

@[simp] theorem respondOk_mbox (results : List Word) : (respondOk results s).mbox = s.mbox := rfl

@[simp] theorem respondOk_seq (results : List Word) : (respondOk results s).seq = .idle := rfl

@[simp] theorem respondOk_inflight (results : List Word) : (respondOk results s).inflight = s.inflight := rfl

@[simp] theorem respondOk_chan (results : List Word) : (respondOk results s).chan = { s.chan with busy := false, response := some (statusWord 0 0 :: results) } := rfl

@[simp] theorem respondOk_env (results : List Word) : (respondOk results s).env = s.env := rfl

@[simp] theorem respondOk_trace (results : List Word) : (respondOk results s).trace = s.trace ++ [.response (statusWord 0 0 :: results)] := rfl

/-! ### raise -/

@[simp] theorem raise_cfg (e : CmdError) : (raise e s).cfg = s.cfg := rfl

@[simp] theorem raise_sess (e : CmdError) : (raise e s).sess = s.sess := rfl

@[simp] theorem raise_win (e : CmdError) : (raise e s).win = s.win := rfl

@[simp] theorem raise_mem (e : CmdError) : (raise e s).mem = s.mem := rfl

@[simp] theorem raise_mbox (e : CmdError) : (raise e s).mbox = s.mbox := rfl

@[simp] theorem raise_seq (e : CmdError) : (raise e s).seq = .idle := rfl

@[simp] theorem raise_inflight (e : CmdError) : (raise e s).inflight = s.inflight := rfl

@[simp] theorem raise_chan (e : CmdError) : (raise e s).chan = { s.chan with busy := false, response := some e.response } := rfl

@[simp] theorem raise_env (e : CmdError) : (raise e s).env = s.env := rfl

@[simp] theorem raise_trace (e : CmdError) : (raise e s).trace = s.trace ++ [.response e.response] := rfl

/-! ### winOpen -/

@[simp] theorem winOpen_cfg (n : WinName) (phys : Word) : (winOpen n phys s).cfg = s.cfg := rfl

@[simp] theorem winOpen_sess (n : WinName) (phys : Word) : (winOpen n phys s).sess = s.sess := rfl

@[simp] theorem winOpen_mem (n : WinName) (phys : Word) : (winOpen n phys s).mem = s.mem := rfl

@[simp] theorem winOpen_mbox (n : WinName) (phys : Word) : (winOpen n phys s).mbox = s.mbox := rfl

@[simp] theorem winOpen_seq (n : WinName) (phys : Word) : (winOpen n phys s).seq = s.seq := rfl

@[simp] theorem winOpen_inflight (n : WinName) (phys : Word) : (winOpen n phys s).inflight = s.inflight := rfl

@[simp] theorem winOpen_chan (n : WinName) (phys : Word) : (winOpen n phys s).chan = s.chan := rfl

@[simp] theorem winOpen_env (n : WinName) (phys : Word) : (winOpen n phys s).env = s.env.popGrant := rfl

@[simp] theorem winOpen_trace (n : WinName) (phys : Word) : (winOpen n phys s).trace = s.trace ++ [.winOpen n phys s.cfg.windowLen s.env.nextGrant] := rfl

/-! ### winClose -/

@[simp] theorem winClose_cfg (n : WinName) : (winClose n s).cfg = s.cfg := by unfold winClose; split <;> rfl

@[simp] theorem winClose_sess (n : WinName) : (winClose n s).sess = s.sess := by unfold winClose; split <;> rfl

@[simp] theorem winClose_mem (n : WinName) : (winClose n s).mem = s.mem := by unfold winClose; split <;> rfl

@[simp] theorem winClose_mbox (n : WinName) : (winClose n s).mbox = s.mbox := by unfold winClose; split <;> rfl

@[simp] theorem winClose_seq (n : WinName) : (winClose n s).seq = s.seq := by unfold winClose; split <;> rfl

@[simp] theorem winClose_inflight (n : WinName) : (winClose n s).inflight = s.inflight := by unfold winClose; split <;> rfl

@[simp] theorem winClose_chan (n : WinName) : (winClose n s).chan = s.chan := by unfold winClose; split <;> rfl

@[simp] theorem winClose_env (n : WinName) : (winClose n s).env = s.env := by unfold winClose; split <;> rfl

/-! ### winRead -/

@[simp] theorem winRead_cfg (n : WinName) (i : Nat) : (winRead n i s).cfg = s.cfg := rfl

@[simp] theorem winRead_sess (n : WinName) (i : Nat) : (winRead n i s).sess = s.sess := rfl

@[simp] theorem winRead_win (n : WinName) (i : Nat) : (winRead n i s).win = s.win := rfl

@[simp] theorem winRead_mem (n : WinName) (i : Nat) : (winRead n i s).mem = s.mem := rfl

@[simp] theorem winRead_mbox (n : WinName) (i : Nat) : (winRead n i s).mbox = s.mbox := rfl

@[simp] theorem winRead_seq (n : WinName) (i : Nat) : (winRead n i s).seq = s.seq := rfl

@[simp] theorem winRead_inflight (n : WinName) (i : Nat) : (winRead n i s).inflight = s.inflight := rfl

@[simp] theorem winRead_chan (n : WinName) (i : Nat) : (winRead n i s).chan = s.chan := rfl

@[simp] theorem winRead_env (n : WinName) (i : Nat) : (winRead n i s).env = s.env.popRead := rfl

@[simp] theorem winRead_trace (n : WinName) (i : Nat) : (winRead n i s).trace = s.trace ++ [.winRead n i s.env.nextRead] := rfl

/-! ### winWrite -/

@[simp] theorem winWrite_cfg (n : WinName) (i : Nat) (v : Word) : (winWrite n i v s).cfg = s.cfg := rfl

@[simp] theorem winWrite_sess (n : WinName) (i : Nat) (v : Word) : (winWrite n i v s).sess = s.sess := rfl

@[simp] theorem winWrite_win (n : WinName) (i : Nat) (v : Word) : (winWrite n i v s).win = s.win := rfl

@[simp] theorem winWrite_mem (n : WinName) (i : Nat) (v : Word) : (winWrite n i v s).mem = s.mem := rfl

@[simp] theorem winWrite_mbox (n : WinName) (i : Nat) (v : Word) : (winWrite n i v s).mbox = s.mbox := rfl

@[simp] theorem winWrite_seq (n : WinName) (i : Nat) (v : Word) : (winWrite n i v s).seq = s.seq := rfl

@[simp] theorem winWrite_inflight (n : WinName) (i : Nat) (v : Word) : (winWrite n i v s).inflight = s.inflight := rfl

@[simp] theorem winWrite_chan (n : WinName) (i : Nat) (v : Word) : (winWrite n i v s).chan = s.chan := rfl

@[simp] theorem winWrite_env (n : WinName) (i : Nat) (v : Word) : (winWrite n i v s).env = s.env := rfl

@[simp] theorem winWrite_trace (n : WinName) (i : Nat) (v : Word) : (winWrite n i v s).trace = s.trace ++ [.winWrite n i v] := rfl

/-! ### mboxCall -/

@[simp] theorem mboxCall_cfg (m : List Word) : (mboxCall m s).cfg = s.cfg := rfl

@[simp] theorem mboxCall_sess (m : List Word) : (mboxCall m s).sess = s.sess := rfl

@[simp] theorem mboxCall_win (m : List Word) : (mboxCall m s).win = s.win := rfl

@[simp] theorem mboxCall_mem (m : List Word) : (mboxCall m s).mem = s.mem := rfl

@[simp] theorem mboxCall_mbox (m : List Word) : (mboxCall m s).mbox = { buf := bufferAfter m (mboxAnswer m s), waiting := decide (mboxAnswer m s = .pending) } := rfl

@[simp] theorem mboxCall_seq (m : List Word) : (mboxCall m s).seq = s.seq := rfl

@[simp] theorem mboxCall_inflight (m : List Word) : (mboxCall m s).inflight = s.inflight := rfl

@[simp] theorem mboxCall_chan (m : List Word) : (mboxCall m s).chan = s.chan := rfl

@[simp] theorem mboxCall_env (m : List Word) : (mboxCall m s).env = s.env.popMbox := rfl

@[simp] theorem mboxCall_trace (m : List Word) : (mboxCall m s).trace = s.trace ++ mboxEvents m (mboxAnswer m s) := rfl

/-! ### hardReset -/

@[simp] theorem hardReset_cfg : (hardReset s).cfg = s.cfg := rfl

@[simp] theorem hardReset_sess : (hardReset s).sess = Session.reset := rfl

@[simp] theorem hardReset_win : (hardReset s).win = Windows.reset := rfl

@[simp] theorem hardReset_mem : (hardReset s).mem = s.mem := rfl

@[simp] theorem hardReset_mbox : (hardReset s).mbox = Mailbox.reset := rfl

@[simp] theorem hardReset_seq : (hardReset s).seq = .idle := rfl

@[simp] theorem hardReset_inflight : (hardReset s).inflight = s.inflight := rfl

@[simp] theorem hardReset_chan : (hardReset s).chan = { s.chan with busy := false, response := none, resetLine := false } := rfl

@[simp] theorem hardReset_env : (hardReset s).env = s.env := rfl

@[simp] theorem hardReset_trace : (hardReset s).trace = s.trace ++ [.hardReset] := rfl

/-! ### accept -/

@[simp] theorem accept_cfg (frame : List Word) (rest : List (List Word)) : (accept frame rest s).cfg = s.cfg := rfl

@[simp] theorem accept_sess (frame : List Word) (rest : List (List Word)) : (accept frame rest s).sess = s.sess := rfl

@[simp] theorem accept_win (frame : List Word) (rest : List (List Word)) : (accept frame rest s).win = s.win := rfl

@[simp] theorem accept_mem (frame : List Word) (rest : List (List Word)) : (accept frame rest s).mem = s.mem := rfl

@[simp] theorem accept_mbox (frame : List Word) (rest : List (List Word)) : (accept frame rest s).mbox = s.mbox := rfl

@[simp] theorem accept_seq (frame : List Word) (rest : List (List Word)) : (accept frame rest s).seq = s.seq := rfl

@[simp] theorem accept_inflight (frame : List Word) (rest : List (List Word)) : (accept frame rest s).inflight = s.inflight := rfl

@[simp] theorem accept_chan (frame : List Word) (rest : List (List Word)) : (accept frame rest s).chan = { s.chan with busy := true, frames := rest } := rfl

@[simp] theorem accept_env (frame : List Word) (rest : List (List Word)) : (accept frame rest s).env = s.env := rfl

@[simp] theorem accept_trace (frame : List Word) (rest : List (List Word)) : (accept frame rest s).trace = s.trace ++ [.command frame] := rfl

/-! ### failConfigure -/

@[simp] theorem failConfigure_cfg (e : CmdError) : (failConfigure e s).cfg = s.cfg := rfl

@[simp] theorem failConfigure_sess (e : CmdError) : (failConfigure e s).sess = { s.sess.unspecified s.env.drawn with memStage := .none } := rfl

@[simp] theorem failConfigure_win (e : CmdError) : (failConfigure e s).win = s.win := rfl

@[simp] theorem failConfigure_mem (e : CmdError) : (failConfigure e s).mem = s.mem := rfl

@[simp] theorem failConfigure_mbox (e : CmdError) : (failConfigure e s).mbox = s.mbox := rfl

@[simp] theorem failConfigure_seq (e : CmdError) : (failConfigure e s).seq = .idle := rfl

@[simp] theorem failConfigure_inflight (e : CmdError) : (failConfigure e s).inflight = s.inflight := rfl

@[simp] theorem failConfigure_chan (e : CmdError) : (failConfigure e s).chan = { s.chan with busy := false, response := some e.response } := rfl

@[simp] theorem failConfigure_env (e : CmdError) : (failConfigure e s).env = s.env.popFree := rfl

@[simp] theorem failConfigure_trace (e : CmdError) : (failConfigure e s).trace = s.trace ++ [.response e.response] := rfl

/-! ### perform -/

@[simp] theorem performAccess_cfg (x : Access) : (performAccess s x).cfg = s.cfg := by
  cases x <;> rfl

@[simp] theorem performAccess_sess (x : Access) : (performAccess s x).sess = s.sess := by
  cases x <;> rfl

@[simp] theorem performAccess_win (x : Access) : (performAccess s x).win = s.win := by
  cases x <;> rfl

@[simp] theorem performAccess_mem (x : Access) : (performAccess s x).mem = s.mem := by
  cases x <;> rfl

@[simp] theorem performAccess_mbox (x : Access) : (performAccess s x).mbox = s.mbox := by
  cases x <;> rfl

@[simp] theorem performAccess_seq (x : Access) : (performAccess s x).seq = s.seq := by
  cases x <;> rfl

@[simp] theorem performAccess_chan (x : Access) : (performAccess s x).chan = s.chan := by
  cases x <;> rfl

@[simp] theorem performAccesses_cfg (xs : List Access) (s : State) :
    (xs.foldl performAccess s).cfg = s.cfg := by
  induction xs generalizing s with
  | nil => rfl
  | cons x xs ih => simp [ih]

@[simp] theorem performAccesses_sess (xs : List Access) (s : State) :
    (xs.foldl performAccess s).sess = s.sess := by
  induction xs generalizing s with
  | nil => rfl
  | cons x xs ih => simp [ih]

@[simp] theorem performAccesses_win (xs : List Access) (s : State) :
    (xs.foldl performAccess s).win = s.win := by
  induction xs generalizing s with
  | nil => rfl
  | cons x xs ih => simp [ih]

@[simp] theorem performAccesses_mem (xs : List Access) (s : State) :
    (xs.foldl performAccess s).mem = s.mem := by
  induction xs generalizing s with
  | nil => rfl
  | cons x xs ih => simp [ih]

@[simp] theorem performAccesses_mbox (xs : List Access) (s : State) :
    (xs.foldl performAccess s).mbox = s.mbox := by
  induction xs generalizing s with
  | nil => rfl
  | cons x xs ih => simp [ih]

@[simp] theorem performAccesses_seq (xs : List Access) (s : State) :
    (xs.foldl performAccess s).seq = s.seq := by
  induction xs generalizing s with
  | nil => rfl
  | cons x xs ih => simp [ih]

@[simp] theorem performAccesses_chan (xs : List Access) (s : State) :
    (xs.foldl performAccess s).chan = s.chan := by
  induction xs generalizing s with
  | nil => rfl
  | cons x xs ih => simp [ih]

@[simp] theorem perform_cfg (a : Action) : (perform a s).cfg = s.cfg := by simp [perform]

@[simp] theorem perform_sess (a : Action) : (perform a s).sess = s.sess := by simp [perform]

@[simp] theorem perform_win (a : Action) : (perform a s).win = s.win := by simp [perform]

@[simp] theorem perform_mem (a : Action) : (perform a s).mem = s.mem := by simp [perform]

@[simp] theorem perform_mbox (a : Action) : (perform a s).mbox = s.mbox := by simp [perform]

@[simp] theorem perform_seq (a : Action) : (perform a s).seq = s.seq := by simp [perform]

@[simp] theorem perform_chan (a : Action) : (perform a s).chan = s.chan := by simp [perform]

@[simp] theorem perform_inflight (a : Action) :
    (perform a s).inflight = a.inflightAfter s.inflight := rfl

end Sys2Proof.Machine
end

