-- ==== Sys2Proof/Laws/Memory.lean ====
section
/-! SUPPORT. The laws of the MemoryBlock: read after write, and that every operation keeps the
canonical form (20_memory.md R70, R71). -/

namespace Sys2Proof.Machine

theorem Memory.read_write_same (m : Memory) (a : Nat) (b : Byte) :
    Memory.read (Memory.write m a b) a = some b := by
  induction m with
  | nil => simp [Memory.write, Memory.read]
  | cons c m ih =>
    obtain ⟨x, d⟩ := c
    unfold Memory.write
    split
    · simp [Memory.read]
    · split
      · simp [Memory.read]
      · rename_i h1 h2
        simp [Memory.read, ih, Ne.symm h2]

theorem Memory.read_write_other (m : Memory) {a c : Nat} (b : Byte) (h : c ≠ a) :
    Memory.read (Memory.write m a b) c = Memory.read m c := by
  induction m with
  | nil => simp [Memory.write, Memory.read, Ne.symm h]
  | cons d m ih =>
    obtain ⟨x, d⟩ := d
    unfold Memory.write
    split
    · simp [Memory.read, Ne.symm h]
    · split
      · rename_i h1 h2
        subst h2
        simp [Memory.read, Ne.symm h]
      · simp [Memory.read, ih]

theorem Memory.read_write (m : Memory) (a c : Nat) (b : Byte) :
    Memory.read (Memory.write m a b) c = if c = a then some b else Memory.read m c := by
  split
  · rename_i h; subst h; exact read_write_same m c b
  · rename_i h; exact read_write_other m b h

/-- A write brings in no address but its own. -/
theorem Memory.mem_write {m : Memory} {a : Nat} {b : Byte} {c : Host.Cell}
    (h : c ∈ Memory.write m a b) : c = (a, b) ∨ c ∈ m := by
  induction m with
  | nil => simp [Memory.write] at h; exact .inl h
  | cons d m ih =>
    obtain ⟨x, d⟩ := d
    unfold Memory.write at h
    split at h
    · simpa using h
    · split at h
      · rcases List.mem_cons.mp h with h | h
        · exact .inl h
        · exact .inr (List.mem_cons_of_mem _ h)
      · rcases List.mem_cons.mp h with h | h
        · exact .inr (by simp [h])
        · rcases ih h with h | h
          · exact .inl h
          · exact .inr (List.mem_cons_of_mem _ h)

theorem Memory.write_wf {m : Memory} (h : m.wf) (a : Nat) (b : Byte) :
    Memory.wf (Memory.write m a b) := by
  induction m with
  | nil => simp [Memory.write, Memory.wf]
  | cons d m ih =>
    obtain ⟨x, d⟩ := d
    simp only [Memory.wf, List.pairwise_cons] at h
    obtain ⟨hx, hm⟩ := h
    unfold Memory.write
    split
    · rename_i hax
      simp only [Memory.wf, List.pairwise_cons, List.mem_cons, forall_eq_or_imp]
      exact ⟨⟨hax, fun c hc => lt_trans hax (hx c hc)⟩, hx, hm⟩
    · split
      · rename_i h1 h2
        subst h2
        simp only [Memory.wf, List.pairwise_cons]
        exact ⟨hx, hm⟩
      · rename_i h1 h2
        simp only [Memory.wf, List.pairwise_cons]
        refine ⟨fun c hc => ?_, ih hm⟩
        rcases Memory.mem_write hc with h | h
        · subst h; show x < a; omega
        · exact hx c h

theorem Memory.writeWord_wf {m : Memory} (h : m.wf) (a : Nat) (v : Word) :
    Memory.wf (Memory.writeWord m a v) :=
  write_wf (write_wf (write_wf (write_wf h _ _) _ _) _ _) _ _

theorem Memory.writeWords_wf {m : Memory} (h : m.wf) (a : Nat) (vs : List Word) :
    Memory.wf (Memory.writeWords m a vs) := by
  induction vs generalizing m a with
  | nil => exact h
  | cons v vs ih => exact ih (writeWord_wf h a v) (a + 4)

/-- The four bytes of a stored word (R71). -/
theorem Memory.read_writeWord (m : Memory) (a : Nat) (v : Word) {r : Nat} (hr : r < 4) :
    Memory.read (Memory.writeWord m a v) (a + r) = some (byteOf v r) := by
  rcases (by omega : r = 0 ∨ r = 1 ∨ r = 2 ∨ r = 3) with h | h | h | h <;> subst h <;>
    simp [Memory.writeWord, Memory.read_write]

theorem Memory.read_writeWord_other (m : Memory) (a : Nat) (v : Word) {c : Nat}
    (h : c < a ∨ a + 4 ≤ c) : Memory.read (Memory.writeWord m a v) c = Memory.read m c := by
  unfold Memory.writeWord
  rw [read_write_other _ _ (by omega), read_write_other _ _ (by omega),
    read_write_other _ _ (by omega), read_write_other _ _ (by omega)]

theorem Memory.read_writeWords_other (m : Memory) (a : Nat) (vs : List Word) {c : Nat}
    (h : c < a ∨ a + 4 * vs.length ≤ c) :
    Memory.read (Memory.writeWords m a vs) c = Memory.read m c := by
  induction vs generalizing m a with
  | nil => rfl
  | cons v vs ih =>
    simp only [List.length_cons] at h
    rw [Memory.writeWords, ih _ _ (by omega), read_writeWord_other _ _ _ (by omega)]

/-- Byte `r` of word `q` of the words stored. -/
theorem Memory.read_writeWords (m : Memory) (a : Nat) (vs : List Word) {q r : Nat}
    (hq : q < vs.length) (hr : r < 4) :
    Memory.read (Memory.writeWords m a vs) (a + 4 * q + r) = some (byteOf vs[q] r) := by
  induction vs generalizing m a q with
  | nil => simp at hq
  | cons v vs ih =>
    rw [Memory.writeWords]
    cases q with
    | zero =>
      rw [read_writeWords_other _ _ _ (by omega)]
      simpa using read_writeWord m a v hr
    | succ q =>
      have := ih (m.writeWord a v) (a + 4) (q := q) (by simpa using hq)
      rw [show a + 4 * (q + 1) + r = a + 4 + 4 * q + r by omega, this]
      simp

/-- The bytes of a word put together again give the word. -/
theorem wordOfBytes_byteOf (v : Word) :
    wordOfBytes (byteOf v 0) (byteOf v 1) (byteOf v 2) (byteOf v 3) = v := by
  apply BitVec.eq_of_toNat_eq
  have hv := v.isLt
  simp only [wordOfBytes, byteOf, BitVec.toNat_ofNat, Nat.shiftRight_eq_div_pow]
  norm_num
  omega

/-- A byte of a word put together is the byte put there. -/
theorem wordBytes_wordOfBytes (b0 b1 b2 b3 : Byte) :
    wordBytes (wordOfBytes b0 b1 b2 b3) = [b0, b1, b2, b3] := by
  have h0 := b0.isLt
  have h1 := b1.isLt
  have h2 := b2.isLt
  have h3 := b3.isLt
  simp only [wordBytes, wordOfBytes, byteOf, List.cons.injEq, and_true]
  refine ⟨?_, ?_, ?_, ?_⟩ <;> apply BitVec.eq_of_toNat_eq <;>
    simp only [BitVec.toNat_ofNat, Nat.shiftRight_eq_div_pow] <;> norm_num <;> omega

theorem Memory.readWord_writeWord (m : Memory) (a : Nat) (v : Word) :
    Memory.readWord (Memory.writeWord m a v) a = some v := by
  have h (r : Nat) (hr : r < 4) := read_writeWord m a v hr
  simp only [Memory.readWord, h 1, h 2, h 3, by simpa using h 0, Nat.reduceLT,
    wordOfBytes_byteOf]

theorem Memory.readWord_writeWords (m : Memory) (a : Nat) (vs : List Word) {q : Nat}
    (hq : q < vs.length) :
    Memory.readWord (Memory.writeWords m a vs) (a + 4 * q) = some vs[q] := by
  have h (r : Nat) (hr : r < 4) := read_writeWords m a vs hq hr
  simp only [Memory.readWord, h 1, h 2, h 3, by simpa using h 0, Nat.reduceLT,
    wordOfBytes_byteOf]

theorem Memory.readWord_writeWords_other (m : Memory) (a : Nat) (vs : List Word) {c : Nat}
    (h : c + 4 ≤ a ∨ a + 4 * vs.length ≤ c) :
    Memory.readWord (Memory.writeWords m a vs) c = Memory.readWord m c := by
  simp only [Memory.readWord]
  rw [read_writeWords_other _ _ _ (by omega), read_writeWords_other _ _ _ (by omega),
    read_writeWords_other _ _ _ (by omega), read_writeWords_other _ _ _ (by omega)]

end Sys2Proof.Machine
end

