-- ==== Sys2Proof/Laws/Encoding.lean ====
section
/-! SUPPORT. The laws of payload packing (30_encoding.md R103) and of the encoder's output words
(41_pattern_encoder.md R157). -/

namespace Sys2Proof

/-- A payload takes `ceil(L / 4)` words (R103). -/
theorem packPayload_length (p : List Byte) : (packPayload p).length = ceilDiv p.length 4 := by
  fun_induction packPayload p with
  | case1 => rfl
  | case2 a => simp [ceilDiv]
  | case3 a b => simp [ceilDiv]
  | case4 a b c => simp [ceilDiv]
  | case5 a b c d rest ih =>
    simp only [List.length_cons, ih, ceilDiv]
    omega

/-- Unpacking gives the payload back. -/
theorem unpackPayload_packPayload (p : List Byte) : unpackPayload p.length (packPayload p) = p := by
  fun_induction packPayload p with
  | case1 => rfl
  | case2 a => simp [unpackPayload, Machine.wordBytes_wordOfBytes]
  | case3 a b => simp [unpackPayload, Machine.wordBytes_wordOfBytes]
  | case4 a b c => simp [unpackPayload, Machine.wordBytes_wordOfBytes]
  | case5 a b c d rest ih =>
    simpa [unpackPayload, Machine.wordBytes_wordOfBytes] using ih

/-- The length word of a well-formed payload says its length. -/
theorem trunc32_toNat {n : Nat} (h : n < 4294967296) : (trunc32 n).toNat = n := by
  simp [trunc32, Nat.mod_eq_of_lt h]

/-! ## Frames -/

/-- A legal opcode makes a command, never a mailbox message (R102). -/
theorem buildCommand_carrier {n k : Nat} {b : Bool} {ws : List Word} {i : Instr}
    (hn : opcodeInfo n = some (k, b)) (h : buildCommand n ws = some i) : i.carrier = .command := by
  unfold opcodeInfo at hn
  split at hn <;> try cases hn
  all_goals
    rcases ws with _ | ⟨a, _ | ⟨b, _ | ⟨c, _ | ⟨d, _ | ⟨e, _ | ⟨f, ws⟩⟩⟩⟩⟩⟩
  all_goals first
    | (cases h; done)
    | (obtain rfl := Option.some.inj h; rfl)
    | (replace h : (if _ then some (Instr.send _) else none) = some i := h
       split at h
       · obtain rfl := Option.some.inj h; rfl
       · cases h)
    | (replace h : (if _ then some (Instr.encode _ _ _ _) else none) = some i := h
       split at h
       · obtain rfl := Option.some.inj h; rfl
       · cases h)

/-- So does a frame that decodes. -/
theorem decodeFrame_carrier {f : List Word} {i : Instr} (h : decodeFrame f = .ok i) :
    i.carrier = .command := by
  unfold decodeFrame at h
  split at h
  · simp at h
  · split at h
    · simp at h
    · split at h
      · simp at h
      · rename_i ho
        obtain ⟨⟨k, b⟩, hk⟩ := Option.ne_none_iff_exists'.mp (by simpa using ho)
        split at h
        · rename_i hb
          obtain rfl := Except.ok.inj h
          exact buildCommand_carrier hk hb
        · simp at h

namespace Machine

theorem packWords_length (m : Nat) (bits : List Bool) : (packWords m bits).length = m := by
  induction m generalizing bits with
  | zero => rfl
  | succ m ih => simp [packWords, ih]

/-- The encoder's output has the size R157 gives it. -/
theorem encodeWords_length (bytes : List Byte) (p : BitPattern) :
    (encodeWords bytes p).length = encodedLength bytes.length p.widthBits :=
  packWords_length _ _

/-- Every word of the region is written (44_session.md R219). -/
theorem fillRegion_length (n : Nat) (words : List Word) : (fillRegion n words).length = n := by
  simp [fillRegion]

end Machine

end Sys2Proof
end

