-- ==== Sys2Proof/Laws/Ops.lean ====
section
/-! SUPPORT. What each shared operation can do: peripheral actions, MemoryBlock writes, and
chaining. Later proofs cite these instead of unfolding the operations. -/

namespace Sys2Proof.Machine

/-! ## Chaining -/

@[simp] theorem andThen_next (s : State) (k : State → Res) : andThen (.next s) k = k s := rfl
@[simp] theorem andThen_fault (f : Fault) (k : State → Res) :
    andThen (.fault f) k = .fault f := rfl

/-- A chain that answers a next state went through a next state. -/
theorem andThen_eq_next {r : Res} {k : State → Res} {t : State} (h : andThen r k = .next t) :
    ∃ s, r = .next s ∧ k s = .next t := by
  cases r with
  | next s => exact ⟨s, rfl, h⟩
  | fault f => simp [andThen] at h
  | refused x => simp [andThen] at h

/-! ## Peripheral actions -/

/-- `emit A` answers a next state exactly where every access is allowed, and then A is performed. -/
theorem emit_eq_next {a : Action} {s t : State} (h : emit a s = .next t) :
    t = perform a s ∧ ∀ x ∈ realise s.cfg a, accessFault s x = none := by
  unfold emit at h
  split at h
  · simp at h
  · rename_i hnone
    simp only [Host.Outcome.next.injEq] at h
    exact ⟨h.symm, fun x hx => by simpa using List.findSome?_eq_none_iff.mp hnone x hx⟩

theorem emit_of_allowed {a : Action} {s : State}
    (h : ∀ x ∈ realise s.cfg a, accessFault s x = none) : emit a s = .next (perform a s) := by
  have : (realise s.cfg a).findSome? (accessFault s) = none :=
    List.findSome?_eq_none_iff.mpr fun x hx => by simpa using h x hx
  simp [emit, this]

/-- Allowed means: the window is open and the index inside it. -/
theorem accessFault_eq_none {s : State} {x : Access} :
    accessFault s x = none ↔
      (s.win.get x.window).isOpen = true ∧ indexFits (s.win.get x.window).len x.index = true := by
  unfold accessFault
  split
  · rename_i h; simp_all
  · split <;> simp_all

/-- The indices the configuration fixes, one by one. -/
theorem Config.indicesFit_iff (c : Config) :
    c.indicesFit = true ↔
      indexFits c.windowLen c.periph.cmCtlIndex = true ∧
      indexFits c.windowLen c.periph.cmDivIndex = true ∧
      indexFits c.windowLen c.periph.pwmCtlIndex = true ∧
      indexFits c.windowLen c.periph.pwmDmacIndex = true ∧
      indexFits c.windowLen c.dmaCs = true ∧
      indexFits c.windowLen c.dmaConblk = true ∧
      indexFits c.windowLen c.dmaDebug = true ∧
      ∀ i ∈ c.periph.pwmRngIndex, indexFits c.windowLen i = true := by
  simp [Config.indicesFit]

/-- Which actions stay inside the windows of a live session: all but the pin's, whose index is an
operand of INIT, and A_PWM_CONFIG only of a channel the PWM has. -/
def Action.sessionAction (c : Config) : Action → Prop
  | .gpioAlt _ _ => False
  | .pwmConfig ch => ch.toNat < c.periph.pwmRngIndex.length
  | _ => True

theorem emit_of_ready {s : State} (h : WindowsReady s) {a : Action}
    (ha : a.sessionAction s.cfg) : emit a s = .next (perform a s) := by
  apply emit_of_allowed
  intro x hx
  rw [accessFault_eq_none]
  obtain ⟨h1, h2, h3, h4, h5, h6, h7, h8⟩ := (Config.indicesFit_iff s.cfg).mp h.indices
  obtain ⟨pO, pL⟩ := h.pwm
  obtain ⟨cO, cL⟩ := h.cm
  obtain ⟨dO, dL⟩ := h.dma
  cases a with
  | gpioAlt g f => exact ha.elim
  | pwmConfig ch =>
    have h9 : indexFits s.cfg.windowLen (s.cfg.periph.pwmRngIndex.getD ch.toNat 0) = true := by
      apply h8
      have : ch.toNat < s.cfg.periph.pwmRngIndex.length := ha
      simp [List.getD, this]
    simp only [realise, List.mem_cons, List.not_mem_nil, or_false] at hx
    rcases hx with rfl | rfl | rfl | rfl <;>
      simp only [Access.window, Access.index, Windows.get, pL] <;> exact ⟨pO, by assumption⟩
  | clkConfig d =>
    simp only [realise, List.mem_cons, List.not_mem_nil, or_false] at hx
    rcases hx with rfl | rfl <;>
      simp only [Access.window, Access.index, Windows.get, cL] <;> exact ⟨cO, by assumption⟩
  | _ =>
    simp only [realise, List.mem_cons, List.not_mem_nil, or_false] at hx
    subst hx
    simp only [Access.window, Access.index, Windows.get, pL, cL, dL, pO, cO, dO, true_and]
    assumption

/-! ### The history of each action -/

@[simp] theorem perform_clkStop_trace (s : State) : (perform .clkStop s).trace =
    s.trace ++ [.action .clkStop,
      .winWrite .cm s.cfg.periph.cmCtlIndex (s.cfg.periph.cmPasswd ||| s.cfg.periph.cmKill)] := by
  simp [perform, realise, performAccess]

@[simp] theorem perform_clkConfig_trace (d : Word) (s : State) : (perform (.clkConfig d) s).trace =
    s.trace ++ [.action (.clkConfig d),
      .winWrite .cm s.cfg.periph.cmDivIndex
        (s.cfg.periph.cmPasswd ||| d <<< s.cfg.periph.cmDiviShift),
      .winWrite .cm s.cfg.periph.cmCtlIndex (s.cfg.periph.cmPasswd ||| s.cfg.periph.cmSrc)] := by
  simp [perform, realise, performAccess]

@[simp] theorem perform_clkEnable_trace (s : State) : (perform .clkEnable s).trace =
    s.trace ++ [.action .clkEnable,
      .winWrite .cm s.cfg.periph.cmCtlIndex
        (s.cfg.periph.cmPasswd ||| s.cfg.periph.cmSrc ||| s.cfg.periph.cmEnab)] := by
  simp [perform, realise, performAccess]

@[simp] theorem perform_pwmConfig_trace (ch : Word) (s : State) :
    (perform (.pwmConfig ch) s).trace =
    s.trace ++ [.action (.pwmConfig ch),
      .winWrite .pwm (s.cfg.periph.pwmRngIndex.getD ch.toNat 0) 32,
      .winWrite .pwm s.cfg.periph.pwmCtlIndex s.cfg.periph.pwmClrf,
      .winWrite .pwm s.cfg.periph.pwmDmacIndex s.cfg.periph.pwmDmacValue,
      .winWrite .pwm s.cfg.periph.pwmCtlIndex
        ((s.cfg.periph.pwmUsef ||| s.cfg.periph.pwmMode ||| s.cfg.periph.pwmPwen) <<<
          s.cfg.periph.pwmChShift.getD ch.toNat 0)] := by
  simp [perform, realise, performAccess]

@[simp] theorem perform_pwmDisable_trace (ch : Word) (s : State) :
    (perform (.pwmDisable ch) s).trace =
    s.trace ++ [.action (.pwmDisable ch), .winWrite .pwm s.cfg.periph.pwmCtlIndex 0] := by
  simp [perform, realise, performAccess]

@[simp] theorem perform_dmaReset_trace (s : State) : (perform .dmaReset s).trace =
    s.trace ++ [.action .dmaReset, .winWrite .dma s.cfg.dmaCs s.cfg.periph.dmaCsReset] := by
  simp [perform, realise, performAccess]

@[simp] theorem perform_dmaReadCs_trace (s : State) : (perform .dmaReadCs s).trace =
    s.trace ++ [.action .dmaReadCs, .winRead .dma s.cfg.dmaCs s.env.nextRead] := by
  simp [perform, realise, performAccess]

@[simp] theorem perform_dmaReadDebug_trace (s : State) : (perform .dmaReadDebug s).trace =
    s.trace ++ [.action .dmaReadDebug, .winRead .dma s.cfg.dmaDebug s.env.nextRead] := by
  simp [perform, realise, performAccess]

@[simp] theorem perform_gpioAlt_trace (g f : Word) (s : State) :
    (perform (.gpioAlt g f) s).trace =
    s.trace ++ [.action (.gpioAlt g f), .winRead .gpio (s.cfg.gpioIndex g) s.env.nextRead,
      .winWrite .gpio (s.cfg.gpioIndex g)
        ((s.env.nextRead &&& ~~~(s.cfg.gpioMask <<< s.cfg.gpioShift g)) |||
          ((f &&& s.cfg.gpioMask) <<< s.cfg.gpioShift g))] := by
  simp [perform, realise, performAccess]

/-- Only reads use up answers of the other agents. -/
@[simp] theorem perform_dmaReadCs_env (s : State) : (perform .dmaReadCs s).env = s.env.popRead := by
  simp [perform, realise, performAccess]

@[simp] theorem perform_dmaReadDebug_env (s : State) :
    (perform .dmaReadDebug s).env = s.env.popRead := by
  simp [perform, realise, performAccess]

@[simp] theorem perform_gpioAlt_env (g f : Word) (s : State) :
    (perform (.gpioAlt g f) s).env = s.env.popRead := by
  simp [perform, realise, performAccess]

theorem perform_env_of_writes {a : Action} {s : State}
    (h : ∀ x ∈ realise s.cfg a, ∃ n i v, x = .write n i v) : (perform a s).env = s.env := by
  have : ∀ (xs : List Access) (u : State), (∀ x ∈ xs, ∃ n i v, x = .write n i v) →
      (xs.foldl performAccess u).env = u.env := by
    intro xs
    induction xs with
    | nil => intro u _; rfl
    | cons x xs ih =>
      intro u hx
      obtain ⟨n, i, v, rfl⟩ := hx x (by simp)
      rw [List.foldl_cons, ih _ fun y hy => hx y (by simp [hy])]
      rfl
  simpa [perform] using this (realise s.cfg a) (record [.action a] s) h

/-- A performed action only appends to the history. -/
theorem perform_trace_prefix (a : Action) (s : State) :
    ∃ es, (perform a s).trace = s.trace ++ es := by
  have one (u : State) (x : Access) : ∃ es, (performAccess u x).trace = u.trace ++ es := by
    cases x with
    | read n i => exact ⟨_, rfl⟩
    | write n i v => exact ⟨_, rfl⟩
    | modify n i c v => exact ⟨_, List.append_assoc _ _ _⟩
  have all (xs : List Access) (u : State) : ∃ es, (xs.foldl performAccess u).trace = u.trace ++ es := by
    induction xs generalizing u with
    | nil => exact ⟨[], by simp⟩
    | cons x xs ih =>
      obtain ⟨es, hes⟩ := ih (performAccess u x)
      obtain ⟨fs, hfs⟩ := one u x
      exact ⟨fs ++ es, by rw [List.foldl_cons, hes, hfs, List.append_assoc]⟩
  obtain ⟨es, hes⟩ := all (realise s.cfg a) (record [.action a] s)
  exact ⟨.action a :: es, by simp [perform, hes]⟩

/-! ## MemoryBlock writes -/

theorem memWrite_of_holds {addr : Nat} {v : Word} {s : State} (h : blockHolds s addr = true) :
    memWrite addr v s =
      .next { s with mem := s.mem.writeWord addr v, trace := s.trace ++ [.memWrite addr v] } := by
  simp [memWrite, h]

theorem memWrite_eq_next {addr : Nat} {v : Word} {s t : State} (h : memWrite addr v s = .next t) :
    blockHolds s addr = true ∧
      t = { s with mem := s.mem.writeWord addr v, trace := s.trace ++ [.memWrite addr v] } := by
  unfold memWrite at h
  split at h
  · rename_i hb
    exact ⟨hb, by simpa using h.symm⟩
  · simp at h

/-- Consecutive writes that answer a next state wrote those words and nothing else. -/
theorem memWrites_eq_next {addr : Nat} {vs : List Word} {s t : State}
    (h : memWrites addr vs s = .next t) :
    t = { s with
          mem := s.mem.writeWords addr vs
          trace := s.trace ++ memWriteEvents addr vs } := by
  induction vs generalizing addr s with
  | nil => simpa [memWrites, Memory.writeWords, memWriteEvents] using h.symm
  | cons v vs ih =>
    obtain ⟨u, hu, ht⟩ := andThen_eq_next h
    obtain ⟨-, rfl⟩ := memWrite_eq_next hu
    rw [ih ht]
    simp [Memory.writeWords, memWriteEvents]

/-- They do answer one where every address lies inside the block. -/
theorem memWrites_of_holds {addr : Nat} {vs : List Word} {s : State}
    (h : ∀ q < vs.length, blockHolds s (addr + 4 * q) = true) :
    memWrites addr vs s =
      .next { s with
        mem := s.mem.writeWords addr vs
        trace := s.trace ++ memWriteEvents addr vs } := by
  induction vs generalizing addr s with
  | nil => simp [memWrites, Memory.writeWords, memWriteEvents]
  | cons v vs ih =>
    have h0 : blockHolds s addr = true := by simpa using h 0 (by simp)
    rw [memWrites, memWrite_of_holds h0, andThen_next, ih]
    · simp [Memory.writeWords, memWriteEvents]
    · intro q hq
      have := h (q + 1) (by simpa using hq)
      rw [show addr + 4 * (q + 1) = addr + 4 + 4 * q by omega] at this
      simpa [blockHolds] using this

/-- Addresses of whole words inside the mapped block. -/
theorem blockHolds_of_offset {s : State} {k : Nat} (hm : s.sess.memStage = .mapped)
    (h4 : k % 4 = 0) (hk : k + 4 ≤ s.sess.blockBytes.toNat) :
    blockHolds s (blockVirt s.sess k) = true := by
  simp [blockHolds, blockVirt, hm, h4, hk]

/-! ## The release chain -/

@[simp] theorem finishShutdown_cfg (n : Option CmdError) (s : State) :
    (finishShutdown n s).cfg = s.cfg := by
  unfold finishShutdown; cases n <;> simp

@[simp] theorem finishShutdown_mem (n : Option CmdError) (s : State) :
    (finishShutdown n s).mem = s.mem := by
  unfold finishShutdown; cases n <;> simp

/-- What SHUTDOWN leaves in the registers, whatever it reports (44_session.md R222). -/
@[simp] theorem finishShutdown_sess (n : Option CmdError) (s : State) :
    (finishShutdown n s).sess =
      { s.sess with state := .shutDown, patternValid := false, memStage := .none } := by
  unfold finishShutdown; cases n <;> simp

/-- Nothing in flight stays so. -/
@[simp] theorem inflightAfterShutdown_false (n : Option CmdError) :
    inflightAfterShutdown n false = false := by
  unfold inflightAfterShutdown; split <;> rfl

@[simp] theorem inflightAfterShutdown_dmaError (g : Word) (b : Bool) :
    inflightAfterShutdown (some (.dmaError g)) b = false := rfl

@[simp] theorem inflightAfterShutdown_none (b : Bool) : inflightAfterShutdown none b = b := rfl

@[simp] theorem finishShutdown_inflight (n : Option CmdError) (s : State) :
    (finishShutdown n s).inflight = inflightAfterShutdown n s.inflight := by
  unfold finishShutdown; cases n <;> simp

@[simp] theorem finishShutdown_seq (n : Option CmdError) (s : State) :
    (finishShutdown n s).seq = .idle := by
  unfold finishShutdown; cases n <;> simp

/-- Closing a window closes that one and leaves the others. -/
theorem winClose_get (n m : WinName) (s : State) :
    ((winClose n s).win.get m).isOpen = (if m = n then false else (s.win.get m).isOpen) := by
  unfold winClose
  split <;> cases n <;> cases m <;> simp_all [Windows.get, Windows.set]

theorem finishShutdown_closed (n : Option CmdError) (s : State) :
    WindowsClosed (finishShutdown n s) := by
  have h : (finishShutdown n s).win =
      (winClose .gpio (winClose .pwm (winClose .cm (winClose .dma s)))).win := by
    unfold finishShutdown; cases n <;> simp
  have g (m : WinName) : ((finishShutdown n s).win.get m).isOpen = false := by
    rw [h]; cases m <;> simp [winClose_get]
  exact ⟨g .gpio, g .pwm, g .cm, g .dma⟩

end Sys2Proof.Machine
end

