-- ==== Sys2Proof/Laws/Mailbox.lean ====
section
/-! SUPPORT. What a mailbox exchange meets and leaves (42_mailbox_allocator.md R172), and everything
the release chain (R180, R181) can do. -/

namespace Sys2Proof.Machine

/-! ## The next answer, where the list gives one -/

theorem nextGrant_of {e : Env} {g : Bool} {gs : List Bool} (h : e.grants = g :: gs) :
    e.nextGrant = g := by simp [Env.nextGrant, h]

theorem nextRead_of {e : Env} {v : Word} {vs : List Word} (h : e.reads = v :: vs) :
    e.nextRead = v := by simp [Env.nextRead, h]

theorem nextMbox_of {e : Env} {a : MboxAnswer} {as : List MboxAnswer} (h : e.mbox = a :: as) :
    e.nextMbox = a := by simp [Env.nextMbox, h]

theorem nextMap_of {e : Env} {v : Option Word} {vs : List (Option Word)} (h : e.maps = v :: vs) :
    e.nextMap = v := by simp [Env.nextMap, h]

@[simp] theorem popGrant_grants (e : Env) : e.popGrant.grants = e.grants.tail := rfl
@[simp] theorem popGrant_reads (e : Env) : e.popGrant.reads = e.reads := rfl
@[simp] theorem popGrant_mbox (e : Env) : e.popGrant.mbox = e.mbox := rfl
@[simp] theorem popGrant_maps (e : Env) : e.popGrant.maps = e.maps := rfl
@[simp] theorem popRead_grants (e : Env) : e.popRead.grants = e.grants := rfl
@[simp] theorem popRead_reads (e : Env) : e.popRead.reads = e.reads.tail := rfl
@[simp] theorem popRead_mbox (e : Env) : e.popRead.mbox = e.mbox := rfl
@[simp] theorem popRead_maps (e : Env) : e.popRead.maps = e.maps := rfl
@[simp] theorem popMbox_grants (e : Env) : e.popMbox.grants = e.grants := rfl
@[simp] theorem popMbox_reads (e : Env) : e.popMbox.reads = e.reads := rfl
@[simp] theorem popMbox_mbox (e : Env) : e.popMbox.mbox = e.mbox.tail := rfl
@[simp] theorem popMbox_maps (e : Env) : e.popMbox.maps = e.maps := rfl
@[simp] theorem popMap_grants (e : Env) : e.popMap.grants = e.grants := rfl
@[simp] theorem popMap_reads (e : Env) : e.popMap.reads = e.reads := rfl
@[simp] theorem popMap_mbox (e : Env) : e.popMap.mbox = e.mbox := rfl
@[simp] theorem popMap_maps (e : Env) : e.popMap.maps = e.maps.tail := rfl

/-! ## One exchange -/

/-- An answer as long as the message is taken word for word. -/
theorem overwriteMessage_eq {m ws : List Word} (d : Nat) (h : ws.length = m.length) :
    overwriteMessage d m ws = ws := by
  apply List.ext_getElem
  · simp [overwriteMessage, h]
  · intro i h1 h2
    simp [overwriteMessage, h2]

/-- Whatever the firmware answers, the message keeps its length. -/
theorem overwriteMessage_length (d : Nat) (m ws : List Word) :
    (overwriteMessage d m ws).length = m.length := by simp [overwriteMessage]

theorem mboxAnswer_answered {m ws : List Word} {s : State} {as : List MboxAnswer}
    (h : s.env.mbox = .answered ws :: as) (hl : ws.length = m.length) :
    mboxAnswer m s = .answered ws := by
  simp [mboxAnswer, nextMbox_of h, overwriteMessage_eq _ hl]

theorem mboxAnswer_failed {m : List Word} {s : State} {as : List MboxAnswer}
    (h : s.env.mbox = .failed :: as) : mboxAnswer m s = .failed := by
  simp [mboxAnswer, nextMbox_of h]

theorem mboxAnswer_pending {m : List Word} {s : State} {as : List MboxAnswer}
    (h : s.env.mbox = .pending :: as) : mboxAnswer m s = .pending := by
  simp [mboxAnswer, nextMbox_of h]

theorem mboxAnswer_ne_pending {m : List Word} {s : State} {a : MboxAnswer} {as : List MboxAnswer}
    (h : s.env.mbox = a :: as) (ha : a ≠ .pending) : mboxAnswer m s ≠ .pending := by
  cases a with
  | pending => exact absurd rfl ha
  | failed => simp [mboxAnswer_failed h]
  | answered ws => simp [mboxAnswer, nextMbox_of h]

/-- An answered exchange. -/
theorem mboxCall_answered {m ws : List Word} {s : State} {as : List MboxAnswer}
    (h : s.env.mbox = .answered ws :: as) (hl : ws.length = m.length) :
    mboxCall m s = { s with
      mbox := { buf := ws, waiting := false }
      env := s.env.popMbox
      trace := s.trace ++ [.mbox mboxIoctl m (some ws)] } := by
  simp [mboxCall, mboxAnswer_answered h hl, bufferAfter, mboxEvents]

/-- A failed exchange: the buffer keeps the request. -/
theorem mboxCall_failed {m : List Word} {s : State} {as : List MboxAnswer}
    (h : s.env.mbox = .failed :: as) :
    mboxCall m s = { s with
      mbox := { buf := m, waiting := false }
      env := s.env.popMbox
      trace := s.trace ++ [.mbox mboxIoctl m none] } := by
  simp [mboxCall, mboxAnswer_failed h, bufferAfter, mboxEvents]

/-- An exchange the firmware has not answered: the buffer is in its hands. -/
theorem mboxCall_pending {m : List Word} {s : State} {as : List MboxAnswer}
    (h : s.env.mbox = .pending :: as) :
    mboxCall m s = { s with
      mbox := { buf := m, waiting := true }
      env := s.env.popMbox } := by
  simp [mboxCall, mboxAnswer_pending h, bufferAfter, mboxEvents]

/-- Nine words for MB_ALLOC, seven for the others (30_encoding.md R111). -/
theorem request_length (tag : Word) (args : List Word) (s : State) :
    (request tag args s).length = args.length + 6 := by
  simp [request, mailboxMessage]

/-! ## The release chain -/

/-- MB_FREE: an exchange; answered or failed, the release that issued it ends. -/
theorem mbFree_cases (h : Word) (s : State) :
    mbFree h s = mboxCall (request tagFree [h] s) s ∧
        ((∀ r, s.seq ≠ .freeing r) ∨ mboxAnswer (request tagFree [h] s) s = .pending) ∨
      ∃ r, s.seq = .freeing r ∧ mboxAnswer (request tagFree [h] s) s ≠ .pending ∧
        mbFree h s = finishRelease (r.afterExchange (mboxAnswer (request tagFree [h] s) s))
          (mboxCall (request tagFree [h] s) s) := by
  unfold mbFree
  cases hs : s.seq with
  | freeing r =>
    by_cases hp : mboxAnswer (request tagFree [h] s) s = .pending
    · simp [hp]
    · simp [hp]
  | _ => simp

/-- MB_UNLOCK: an exchange; answered or failed, the release goes on with MB_FREE, MEM_STAGE 1. -/
theorem mbUnlock_cases (h : Word) (s : State) :
    mbUnlock h s = mboxCall (request tagUnlock [h] s) s ∧
        ((∀ r, s.seq ≠ .unlocking r) ∨ mboxAnswer (request tagUnlock [h] s) s = .pending) ∨
      ∃ r, s.seq = .unlocking r ∧ mboxAnswer (request tagUnlock [h] s) s ≠ .pending ∧
        mbUnlock h s = mbFree s.sess.memHandle
          { mboxCall (request tagUnlock [h] s) s with
            seq := .freeing (r.afterExchange (mboxAnswer (request tagUnlock [h] s) s))
            sess := { s.sess with memStage := .allocated } } := by
  unfold mbUnlock
  cases hs : s.seq with
  | unlocking r =>
    by_cases hp : mboxAnswer (request tagUnlock [h] s) s = .pending
    · simp [hp]
    · simp [hp]
  | _ => simp

@[simp] theorem finishRelease_cfg (r : Releaser) (s : State) :
    (finishRelease r s).cfg = s.cfg := by cases r <;> simp [finishRelease]

@[simp] theorem finishRelease_mem (r : Releaser) (s : State) :
    (finishRelease r s).mem = s.mem := by cases r <;> simp [finishRelease]

@[simp] theorem finishRelease_seq (r : Releaser) (s : State) :
    (finishRelease r s).seq = .idle := by cases r <;> simp [finishRelease]

@[simp] theorem mbFree_cfg (h : Word) (s : State) : (mbFree h s).cfg = s.cfg := by
  rcases mbFree_cases h s with ⟨e, -⟩ | ⟨r, -, -, e⟩ <;> simp [e]

@[simp] theorem mbFree_mem (h : Word) (s : State) : (mbFree h s).mem = s.mem := by
  rcases mbFree_cases h s with ⟨e, -⟩ | ⟨r, -, -, e⟩ <;> simp [e]

@[simp] theorem mbUnlock_cfg (h : Word) (s : State) : (mbUnlock h s).cfg = s.cfg := by
  rcases mbUnlock_cases h s with ⟨e, -⟩ | ⟨r, -, -, e⟩ <;> simp [e]

@[simp] theorem mbUnlock_mem (h : Word) (s : State) : (mbUnlock h s).mem = s.mem := by
  rcases mbUnlock_cases h s with ⟨e, -⟩ | ⟨r, -, -, e⟩ <;> simp [e]

@[simp] theorem startRelease_cfg (r : Releaser) (s : State) : (startRelease r s).cfg = s.cfg := by
  unfold startRelease; split <;> simp

/-- Giving the block back writes no byte of it. -/
@[simp] theorem startRelease_mem (r : Releaser) (s : State) : (startRelease r s).mem = s.mem := by
  unfold startRelease; split <;> simp

end Sys2Proof.Machine
end

