-- ==== Sys2Proof/Laws/Transfer.lean ====
section
/-! SUPPORT. The response words of the errors (60_exceptions.md R241 to R245), and what the shared
operations of SEND, WAIT and SHUTDOWN answer where the session holds its windows and its block. -/

namespace Sys2Proof.Machine

/-- Two states with equal fields are equal. -/
theorem State.eq_of_fields {a b : State} (h1 : a.cfg = b.cfg) (h2 : a.sess = b.sess)
    (h3 : a.win = b.win) (h4 : a.mem = b.mem) (h5 : a.mbox = b.mbox) (h6 : a.seq = b.seq)
    (h7 : a.inflight = b.inflight) (h8 : a.chan = b.chan) (h9 : a.env = b.env)
    (h10 : a.trace = b.trace) : a = b := by
  cases a; cases b; simp_all

/-! ## Response words -/

theorem respondOk_eq (results : List Word) (s : State) :
    respondOk results s = respond (0 :: results) s := rfl

theorem response_dmaError (g : Word) : (CmdError.dmaError g).response = [0x00000104, g] := by
  simp [CmdError.response, CmdError.kind, CmdError.cause, CmdError.info, statusWord, trunc32]

theorem response_mboxFailed : (CmdError.alloc .mboxFailed).response = [0x00000402] := by decide

/-! ## Windows -/

/-- Performing an action opens and closes no window. -/
theorem WindowsReady.perform {s : State} (h : WindowsReady s) (a : Action) :
    WindowsReady (Machine.perform a s) := by
  obtain ⟨h1, h2, h3, h4, h5, h6⟩ := h
  constructor <;> simpa

/-- Windows, configuration and channel register are all that counts. -/
theorem WindowsReady.of_eq {s t : State} (h : WindowsReady s) (hc : t.cfg = s.cfg)
    (hw : t.win = s.win) (hn : t.sess.channel = s.sess.channel) : WindowsReady t := by
  obtain ⟨h1, h2, h3, h4, h5, h6⟩ := h
  constructor <;> simp only [hc, hw, hn] <;> assumption

/-! ## Configuration -/

/-- The constraints of R299, one by one. -/
theorem Config.valid_iff (c : Config) :
    c.valid = true ↔
      1 ≤ c.maxDivisor ∧ c.maxDivisor * 2 ^ c.periph.cmDiviShift < 4294967296 ∧
      c.maxDivisor * 2 ^ c.periph.cmDiviShift < 2 ^ c.periph.cmPasswdLow ∧
      c.pageSize = 2 ^ c.pageSize.log2 ∧ c.descBytes ≤ c.pageSize ∧ c.pageSize < 4294967296 ∧
      c.descBytes % 4 = 0 ∧ 24 ≤ c.descBytes ∧ c.windowLen % 4 = 0 ∧
      1 ≤ c.periph.gpioPinsPerReg ∧ c.periph.pwmRngIndex.length = c.periph.pwmChannels ∧
      c.periph.pwmChShift.length = c.periph.pwmChannels ∧
      c.periph.cmPasswd.toNat % 2 ^ c.periph.cmPasswdLow = 0 := by
  simp [Config.valid, and_assoc]

/-! ## DmaWait (43_dma_engine.md R196), one poll -/

/-- The transfer has ended. -/
theorem dmaPoll_ended {s : State} {v : Word} {vs : List Word} (k : Poller) (hw : WindowsReady s)
    (hr : s.env.reads = v :: vs) (he : v &&& s.cfg.periph.dmaCsError = 0)
    (ha : v &&& s.cfg.periph.dmaCsActive = 0) :
    dmaPoll k s = afterWait k { s with
      seq := .idle
      inflight := false
      env := s.env.popRead
      trace := s.trace ++ [.action .dmaReadCs, .winRead .dma s.cfg.dmaCs v] } := by
  unfold dmaPoll
  rw [emit_of_ready hw (a := .dmaReadCs) trivial, andThen_next]
  simp only [nextRead_of hr]
  rw [if_neg (by simpa using he), if_pos ha]
  refine congrArg (afterWait k) ?_
  apply State.eq_of_fields <;> simp [nextRead_of hr]

/-- It has not. -/
theorem dmaPoll_active {s : State} {v : Word} {vs : List Word} (k : Poller) (hw : WindowsReady s)
    (hr : s.env.reads = v :: vs) (he : v &&& s.cfg.periph.dmaCsError = 0)
    (ha : v &&& s.cfg.periph.dmaCsActive ≠ 0) :
    dmaPoll k s = .next { s with
      seq := .polling k
      env := s.env.popRead
      trace := s.trace ++ [.action .dmaReadCs, .winRead .dma s.cfg.dmaCs v, .sleep] } := by
  unfold dmaPoll
  rw [emit_of_ready hw (a := .dmaReadCs) trivial, andThen_next]
  simp only [nextRead_of hr]
  rw [if_neg (by simpa using he), if_neg ha]
  refine congrArg Host.Outcome.next ?_
  apply State.eq_of_fields <;> simp [nextRead_of hr, Action.inflightAfter]

/-- It has failed, whatever the active flag shows. -/
theorem dmaPoll_error {s : State} {v g : Word} {vs : List Word} (k : Poller) (hw : WindowsReady s)
    (hr : s.env.reads = v :: g :: vs) (he : v &&& s.cfg.periph.dmaCsError ≠ 0) :
    dmaPoll k s = afterWaitError k g { s with
      seq := .idle
      sess := { s.sess with fault := true }
      env := s.env.popRead.popRead
      trace := s.trace ++
        [.action .dmaReadCs, .winRead .dma s.cfg.dmaCs v,
          .action .dmaReadDebug, .winRead .dma s.cfg.dmaDebug g] } := by
  have hg : (perform .dmaReadCs s).env.nextRead = g := by simp [Env.nextRead, hr]
  unfold dmaPoll
  rw [emit_of_ready hw (a := .dmaReadCs) trivial, andThen_next]
  simp only [nextRead_of hr]
  rw [if_pos he, emit_of_ready (hw.perform _) (a := .dmaReadDebug) trivial, andThen_next, hg]
  refine congrArg (afterWaitError k g) ?_
  apply State.eq_of_fields <;> simp [nextRead_of hr, Action.inflightAfter]
  simp [Env.nextRead, hr]

/-! ## DmaStart and the pattern region -/

/-- DmaStart (43_dma_engine.md R194) writes five registers and sets INFLIGHT. -/
theorem dmaStart_of_ready {s : State} (a : Word) (hw : WindowsReady s) :
    dmaStart a s = .next { s with
      inflight := true
      trace := s.trace ++ dmaStartEvents s.cfg a } := by
  unfold dmaStart
  simp only [emitAll]
  rw [emit_of_ready hw (a := .dmaReset) trivial, andThen_next,
    emit_of_ready (hw.perform _) (a := .dmaClearFlags) trivial, andThen_next,
    emit_of_ready ((hw.perform _).perform _) (a := .dmaClearDebug) trivial, andThen_next,
    emit_of_ready (((hw.perform _).perform _).perform _) (a := .dmaSetCb a) trivial, andThen_next,
    emit_of_ready ((((hw.perform _).perform _).perform _).perform _) (a := .dmaGo) trivial,
    andThen_next]
  refine congrArg Host.Outcome.next ?_
  apply State.eq_of_fields <;>
    simp [perform, realise, performAccess, winWrite, record, dmaStartEvents, Action.inflightAfter]

/-- Words written inside the mapped block. -/
theorem memWrites_at_offset {s : State} {off : Nat} {vs : List Word}
    (hm : s.sess.memStage = .mapped) (h4 : off % 4 = 0)
    (hf : off + 4 * vs.length ≤ s.sess.blockBytes.toNat) :
    memWrites (blockVirt s.sess off) vs s = .next { s with
      mem := s.mem.writeWords (blockVirt s.sess off) vs
      trace := s.trace ++ memWriteEvents (blockVirt s.sess off) vs } := by
  apply memWrites_of_holds
  intro q hq
  have := blockHolds_of_offset (s := s) (k := off + 4 * q) hm (by omega) (by omega)
  simpa [blockVirt, add_assoc] using this

/-- SEND after its wait (44_session.md R219): the region rewritten, the transfer started. -/
theorem startSend_eq {s : State} (payload : List Byte) (hw : WindowsReady s)
    (hc : s.cfg.valid = true) (hm : s.sess.memStage = .mapped) (hp : PatternOk s.cfg s.sess) :
    startSend payload s = .next (respond [0] { s with
      sess := { s.sess with state := .sending }
      inflight := true
      mem := s.mem.writeWords (patternVirt s.cfg s.sess)
        (fillRegion (s.sess.patternBytes.toNat / 4) (encodeWords payload s.sess.pattern))
      trace := s.trace ++
        memWriteEvents (patternVirt s.cfg s.sess)
          (fillRegion (s.sess.patternBytes.toNat / 4) (encodeWords payload s.sess.pattern)) ++
        dmaStartEvents s.cfg s.sess.memBus }) := by
  obtain ⟨-, -, -, -, -, -, h4, -⟩ := (Config.valid_iff _).mp hc
  have hf := hp.layout.fits
  unfold startSend
  rw [show patternVirt s.cfg s.sess = blockVirt s.sess s.cfg.descBytes from rfl,
    memWrites_at_offset hm h4 (by rw [fillRegion_length]; omega), andThen_next,
    dmaStart_of_ready, andThen_next]
  · rfl
  · exact hw.of_eq rfl rfl rfl

/-! ## The end of SHUTDOWN -/

/-- A finished SHUTDOWN has responded, whatever it reported. -/
theorem finishShutdown_responded (n : Option CmdError) {s : State} (hw : s.mbox.waiting = false) :
    Responded (finishShutdown n s) := by
  refine ⟨by simp, ?_, ?_, ?_⟩ <;> unfold finishShutdown <;> cases n <;> simp [hw]

/-- Nothing outlives it if nothing was in flight, or a DMA error is what it reports
(70_reset_and_hazards.md R303). -/
theorem finishShutdown_clean (n : Option CmdError) {s : State}
    (hi : inflightAfterShutdown n s.inflight = false) :
    Clean (finishShutdown n s) :=
  ⟨by simp, by simp, finishShutdown_closed _ _, by simp [hi]⟩

/-- It reports the error noted, or OK. -/
theorem finishShutdown_response (n : Option CmdError) (s : State) :
    (finishShutdown n s).chan.response = some ((n.map CmdError.response).getD [0]) := by
  unfold finishShutdown
  cases n <;> simp [statusWord, trunc32]

end Sys2Proof.Machine
end

