-- ==== Sys2Proof/Laws/Configure.lean ====
section
/-! SUPPORT. What the end of CFGPAT answers once its block is mapped (44_session.md R217), and what
computing the job guarantees (10_state.md R29, 44_session.md R216). -/

namespace Sys2Proof.Machine

/-! ## Rounding (00_scope.md R11) -/

/-- `roundup(a, m)` is the smallest multiple of m not below a. -/
theorem roundUp_spec (a : Nat) {m : Nat} (hm : 0 < m) :
    roundUp a m % m = 0 ∧ a ≤ roundUp a m ∧ ∀ b, b % m = 0 → a ≤ b → roundUp a m ≤ b := by
  unfold roundUp ceilDiv
  have hd := Nat.div_add_mod (a + m - 1) m
  have hl := Nat.mod_lt (a + m - 1) hm
  refine ⟨Nat.mul_mod_left _ _, by rw [mul_comm]; omega, fun b hb hab => ?_⟩
  obtain ⟨k, rfl⟩ := Nat.dvd_of_mod_eq_zero hb
  rw [mul_comm m k]
  apply Nat.mul_le_mul_right
  apply Nat.le_of_lt_succ
  rw [Nat.div_lt_iff_lt_mul hm, Nat.succ_mul, mul_comm k m]
  omega

/-! ## The chosen width -/

/-- A code lies below `2^width` (41_pattern_encoder.md R151). -/
theorem representation_lt {p w : Nat} (hp : p ≤ 100) (hw : 1 ≤ w) : representation p w < 2 ^ w := by
  have hn : onesCount p w ≤ w := by
    unfold onesCount
    have := Nat.mul_le_mul_right w hp
    omega
  unfold representation patternCode
  calc (2 ^ onesCount p w - 1) * 2 ^ (w - onesCount p w)
      < 2 ^ onesCount p w * 2 ^ (w - onesCount p w) :=
        Nat.mul_lt_mul_of_pos_right (by have := Nat.two_pow_pos (onesCount p w); omega)
          (Nat.two_pow_pos _)
    _ = 2 ^ w := by rw [← pow_add]; congr 1; omega

theorem searchWidth_some {z o : Nat} {p : BitPattern} :
    ∀ {count w : Nat}, searchWidth z o w count = some p →
      w ≤ p.widthBits ∧ p.widthBits < w + count ∧ p.zeroCode = representation z p.widthBits ∧
        p.oneCode = representation o p.widthBits ∧ p.zeroCode ≠ p.oneCode := by
  intro count
  induction count with
  | zero => intro w h; simp [searchWidth] at h
  | succ n ih =>
    intro w h
    unfold searchWidth at h
    split at h
    · rename_i hne
      cases h
      exact ⟨le_rfl, by simp, rfl, rfl, hne⟩
    · have := ih h
      omega

/-- What `chooseWidth` returns (41_pattern_encoder.md R153, 10_state.md R29). -/
theorem chooseWidth_some {z o : Nat} {p : BitPattern} (hz : z ≤ 100) (ho : o ≤ 100)
    (h : chooseWidth z o = some p) :
    3 ≤ p.widthBits ∧ p.widthBits ≤ 16 ∧ p.zeroCode < 2 ^ p.widthBits ∧
      p.oneCode < 2 ^ p.widthBits ∧ p.zeroCode ≠ p.oneCode := by
  obtain ⟨h1, h2, h3, h4, h5⟩ := searchWidth_some h
  refine ⟨h1, by omega, ?_, ?_, h5⟩
  · rw [h3]; exact representation_lt hz (by omega)
  · rw [h4]; exact representation_lt ho (by omega)

/-- The clamps of `solveUnscaled` (40_clock_divisor.md R145). -/
theorem solveUnscaled_range {m : Nat} (hm : 1 ≤ m) (base desired : Nat) :
    1 ≤ solveUnscaled m base desired ∧ solveUnscaled m base desired ≤ m := by
  unfold solveUnscaled
  simp only
  split_ifs <;> omega

/-! ## The end of CFGPAT -/

/-- The set-up writes nine registers and nothing else. -/
theorem setup_of_ready {s : State} (d : Word) (hw : WindowsReady s) (hc : s.cfg.valid = true) :
    emitAll [.clkStop, .clkConfig d, .clkEnable, .pwmConfig s.sess.channel] s =
      .next { s with trace := s.trace ++ setupEvents s.cfg d s.sess.channel } := by
  obtain ⟨-, -, -, -, -, -, -, -, -, -, hl, -⟩ := (Config.valid_iff _).mp hc
  simp only [emitAll]
  rw [emit_of_ready hw (a := .clkStop) trivial, andThen_next,
    emit_of_ready (hw.perform _) (a := .clkConfig d) trivial, andThen_next,
    emit_of_ready ((hw.perform _).perform _) (a := .clkEnable) trivial, andThen_next,
    emit_of_ready (((hw.perform _).perform _).perform _) (a := .pwmConfig s.sess.channel)
      (by simp only [Action.sessionAction, perform_cfg]; rw [hl]; exact hw.channel), andThen_next]
  refine congrArg Host.Outcome.next ?_
  apply State.eq_of_fields <;>
    simp [perform, realise, performAccess, winWrite, record, setupEvents, Action.inflightAfter]

theorem buildDescriptor_length {c : Config} (hc : c.valid = true) (a b l : Word) :
    (buildDescriptor c a b l).length = c.descBytes / 4 := by
  obtain ⟨-, -, -, -, -, -, -, h, -⟩ := (Config.valid_iff _).mp hc
  simp [buildDescriptor]
  omega

/-- The descriptor written inside the mapped block (43_dma_engine.md R193). -/
theorem writeDescriptor_of_mapped {s : State} {words : List Word} (hm : s.sess.memStage = .mapped)
    (hf : 4 * words.length ≤ s.sess.blockBytes.toNat) :
    writeDescriptor words s = .next { s with
      mem := s.mem.writeWords (blockVirt s.sess 0) words
      trace := s.trace ++ memWriteEvents (blockVirt s.sess 0) words } :=
  memWrites_at_offset hm rfl (by omega)

/-- CFGPAT once the clock and the PWM are set up. -/
theorem describeAndRespond_eq {s : State} {j : CfgJob} (hc : s.cfg.valid = true)
    (hm : s.sess.memStage = .mapped) (hf : s.cfg.descBytes ≤ s.sess.blockBytes.toNat) (d : Word) :
    (andThen (writeDescriptor (jobDescriptor s j) s) fun t =>
      .next (respondOk (cfgpatResults (t.sess.configured j d))
        { t with sess := t.sess.configured j d })) =
      .next (respond (0 :: cfgpatResults (s.sess.configured j d))
        { s with
          sess := s.sess.configured j d
          mem := s.mem.writeWords (blockVirt s.sess 0) (jobDescriptor s j)
          trace := s.trace ++ memWriteEvents (blockVirt s.sess 0) (jobDescriptor s j) }) := by
  have hl : (jobDescriptor s j).length = s.cfg.descBytes / 4 := buildDescriptor_length hc _ _ _
  rw [writeDescriptor_of_mapped hm (by rw [hl]; omega), andThen_next, respondOk_eq]

/-- Zero-fill, clock, PWM, descriptor, registers, response (44_session.md R217). -/
theorem finishConfigure_eq {s : State} {j : CfgJob} (hw : WindowsReady s) (hc : s.cfg.valid = true)
    (hm : s.sess.memStage = .mapped)
    (hf : s.cfg.descBytes + j.patternBytes.toNat ≤ s.sess.blockBytes.toNat) :
    finishConfigure j s =
      .next (respond
        (0 :: cfgpatResults (s.sess.configured j (jobDivisor s.cfg j)))
        { s with
          sess := s.sess.configured j (jobDivisor s.cfg j)
          mem := (s.mem.writeWords (blockVirt s.sess s.cfg.descBytes)
            (List.replicate (j.patternBytes.toNat / 4) 0)).writeWords (blockVirt s.sess 0)
              (jobDescriptor s j)
          trace := s.trace ++
            memWriteEvents (blockVirt s.sess s.cfg.descBytes)
              (List.replicate (j.patternBytes.toNat / 4) 0) ++
            setupEvents s.cfg (jobDivisor s.cfg j) s.sess.channel ++
            memWriteEvents (blockVirt s.sess 0) (jobDescriptor s j) }) := by
  obtain ⟨-, -, -, -, -, -, h4, -⟩ := (Config.valid_iff _).mp hc
  unfold finishConfigure
  rw [show patternVirt s.cfg s.sess = blockVirt s.sess s.cfg.descBytes from rfl,
    memWrites_at_offset hm h4 (by simp; omega), andThen_next]
  have hset := setup_of_ready
    (s := { s with
      mem := s.mem.writeWords (blockVirt s.sess s.cfg.descBytes)
        (List.replicate (j.patternBytes.toNat / 4) 0)
      trace := s.trace ++ memWriteEvents (blockVirt s.sess s.cfg.descBytes)
        (List.replicate (j.patternBytes.toNat / 4) 0) })
    (jobDivisor s.cfg j) (hw.of_eq rfl rfl rfl) hc
  simp only at hset
  rw [hset, andThen_next]
  refine Eq.trans (describeAndRespond_eq (by exact hc) (by exact hm) (by dsimp only; omega) _) ?_
  rfl

end Sys2Proof.Machine
end

