-- ==== Sys2Proof/Laws/Exchange.lean ====
section
/-! SUPPORT. What CFGPAT's allocation and a release do at each exchange, by the firmware's answer
(42_mailbox_allocator.md R179 to R181): one equation per answer, chained by transitivity. -/

namespace Sys2Proof.Machine

/-! ## The four requests, word by word (30_encoding.md R111) -/

theorem request_alloc (s : State) (a b c : Word) :
    request tagAlloc [a, b, c] s = [36, s.cfg.mboxReqCode, 0x3000c, 12, 12, a, b, c, 0] := rfl

theorem request_lock (s : State) (h : Word) :
    request tagLock [h] s = [28, s.cfg.mboxReqCode, 0x3000d, 4, 4, h, 0] := rfl

theorem request_unlock (s : State) (h : Word) :
    request tagUnlock [h] s = [28, s.cfg.mboxReqCode, 0x3000e, 4, 4, h, 0] := rfl

theorem request_free (s : State) (h : Word) :
    request tagFree [h] s = [28, s.cfg.mboxReqCode, 0x3000f, 4, 4, h, 0] := rfl

/-! They are read back. -/

theorem decodeMessage_alloc (s : State) (a b c : Word) :
    decodeMessage s.cfg.mboxReqCode (request tagAlloc [a, b, c] s) = .ok (.mbAlloc a b c) := by
  rw [request_alloc]
  simp [decodeMessage, tagAlloc]

theorem decodeMessage_lock (s : State) (h : Word) :
    decodeMessage s.cfg.mboxReqCode (request tagLock [h] s) = .ok (.mbLock h) := by
  rw [request_lock]
  simp [decodeMessage, tagLock]

theorem decodeMessage_unlock (s : State) (h : Word) :
    decodeMessage s.cfg.mboxReqCode (request tagUnlock [h] s) = .ok (.mbUnlock h) := by
  rw [request_unlock]
  simp [decodeMessage, tagLock, tagUnlock]

theorem decodeMessage_free (s : State) (h : Word) :
    decodeMessage s.cfg.mboxReqCode (request tagFree [h] s) = .ok (.mbFree h) := by
  rw [request_free]
  simp [decodeMessage, tagLock, tagUnlock, tagFree]

/-! ## The exchange inside a message's meaning -/

/-- The state after an answered exchange. -/
def State.answeredWith (s : State) (m ws : List Word) : State :=
  { s with
    mbox := { buf := ws, waiting := false }
    env := s.env.popMbox
    trace := s.trace ++ [.mbox mboxIoctl m (some ws)] }

/-- The state after a failed exchange. -/
def State.failedWith (s : State) (m : List Word) : State :=
  { s with
    mbox := { buf := m, waiting := false }
    env := s.env.popMbox
    trace := s.trace ++ [.mbox mboxIoctl m none] }

theorem mboxCall_eq_answeredWith {m ws : List Word} {s : State} {as : List MboxAnswer}
    (h : s.env.mbox = .answered ws :: as) (hl : ws.length = m.length) :
    mboxCall m s = s.answeredWith m ws := mboxCall_answered h hl

theorem mboxCall_eq_failedWith {m : List Word} {s : State} {as : List MboxAnswer}
    (h : s.env.mbox = .failed :: as) : mboxCall m s = s.failedWith m := mboxCall_failed h

/-! ## Giving the block back -/

/-- An answered exchange changes nothing about the release's outcome. -/
theorem afterExchange_answered (r : Releaser) (ws : List Word) :
    r.afterExchange (.answered ws) = r := by
  rcases r with e | _ | n <;> rfl

theorem mbFree_answered {s : State} {h : Word} {r : Releaser} {a : List Word}
    {as : List MboxAnswer} (hq : s.seq = .freeing r) (hm : s.env.mbox = .answered a :: as)
    (ha : a.length = 7) :
    mbFree h s = finishRelease r (s.answeredWith (request tagFree [h] s) a) := by
  have hl : a.length = (request tagFree [h] s).length := by simp [request_length, ha]
  unfold mbFree
  rw [hq]
  dsimp only
  rw [mboxAnswer_answered hm hl, if_neg (by simp), mboxCall_eq_answeredWith hm hl,
    afterExchange_answered]

theorem mbFree_failed {s : State} {h : Word} {r : Releaser} {as : List MboxAnswer}
    (hq : s.seq = .freeing r) (hm : s.env.mbox = .failed :: as) :
    mbFree h s =
      finishRelease (r.afterExchange .failed) (s.failedWith (request tagFree [h] s)) := by
  unfold mbFree
  rw [hq]
  dsimp only
  rw [mboxAnswer_failed hm, if_neg (by simp), mboxCall_eq_failedWith hm]

theorem mbUnlock_answered {s : State} {h : Word} {r : Releaser} {a : List Word}
    {as : List MboxAnswer} (hq : s.seq = .unlocking r) (hm : s.env.mbox = .answered a :: as)
    (ha : a.length = 7) :
    mbUnlock h s = mbFree s.sess.memHandle
      { s.answeredWith (request tagUnlock [h] s) a with
        seq := .freeing r
        sess := { s.sess with memStage := .allocated } } := by
  have hl : a.length = (request tagUnlock [h] s).length := by simp [request_length, ha]
  unfold mbUnlock
  rw [hq]
  dsimp only
  rw [mboxAnswer_answered hm hl, if_neg (by simp), mboxCall_eq_answeredWith hm hl,
    afterExchange_answered]

theorem mbUnlock_failed {s : State} {h : Word} {r : Releaser} {as : List MboxAnswer}
    (hq : s.seq = .unlocking r) (hm : s.env.mbox = .failed :: as) :
    mbUnlock h s = mbFree s.sess.memHandle
      { s.failedWith (request tagUnlock [h] s) with
        seq := .freeing (r.afterExchange .failed)
        sess := { s.sess with memStage := .allocated } } := by
  unfold mbUnlock
  rw [hq]
  dsimp only
  rw [mboxAnswer_failed hm, if_neg (by simp), mboxCall_eq_failedWith hm]

/-- Nothing held: the release is over. -/
theorem startRelease_none {s : State} {r : Releaser} (h : s.sess.memStage = .none) :
    startRelease r s = finishRelease r s := by unfold startRelease; rw [h]

/-- A handle held: free it. -/
theorem startRelease_allocated {s : State} {r : Releaser} (h : s.sess.memStage = .allocated) :
    startRelease r s = mbFree s.sess.memHandle { s with seq := .freeing r } := by
  unfold startRelease; rw [h]

/-- A locked block: unlock it, then free it. -/
theorem startRelease_locked {s : State} {r : Releaser} (h : s.sess.memStage = .locked) :
    startRelease r s = mbUnlock s.sess.memHandle { s with seq := .unlocking r } := by
  unfold startRelease; rw [h]

/-- A mapped block: unmap it first, MEM_STAGE 2. -/
theorem startRelease_mapped {s : State} {r : Releaser} (h : s.sess.memStage = .mapped) :
    startRelease r s = mbUnlock s.sess.memHandle
      { record [.unmapPhys s.sess.memVirt s.sess.blockBytes] s with
        seq := .unlocking r
        sess := { s.sess with memStage := .locked } } := by
  unfold startRelease; rw [h]

/-! ## Allocating it -/

/-- CFGPAT past its checks issues Allocate with size BLOCK_BYTES (44_session.md R217). -/
theorem execCfgpat_allocates {s : State} {n f r z o : Word} {p : BitPattern}
    (h1 : s.sess.state = .configured) (h2 : s.sess.patternValid = false) (hz : z.toNat ≤ 100)
    (ho : o.toNat ≤ 100) (hf : f ≠ 0) (hp : chooseWidth z.toNat o.toNat = some p)
    (hb : blockBytes s.cfg n.toNat f.toNat r.toNat p.widthBits < 2 ^ 32) :
    execCfgpat n f r z o s =
      allocate
        (cfgJob n f r p (patternBytes n.toNat f.toNat r.toNat p.widthBits)
          (blockBytes s.cfg n.toNat f.toNat r.toNat p.widthBits))
        { s with
          sess := { s.sess with
            blockBytes := trunc32 (blockBytes s.cfg n.toNat f.toNat r.toNat p.widthBits) } } := by
  unfold execCfgpat
  rw [if_neg (by simp [Session.canConfigure, h1, h2]),
    if_neg (by simpa [cfgpatOperandsOk, percentOk, and_assoc] using ⟨hz, ho, hf⟩), hp]
  dsimp only
  rw [if_neg (by omega)]

/-- The physical range MapPhys is asked for (20_memory.md R68, 42_mailbox_allocator.md R178). -/
theorem blockPhys_zero (c : Config) (r : Session) :
    trunc32 (blockPhys c r 0) = r.memBus &&& ~~~c.uncachedAliasMask := by
  unfold trunc32 blockPhys
  rw [Nat.add_zero, BitVec.ofNat_toNat, BitVec.setWidth_eq]

theorem mbAlloc_of_allocating {s : State} {j : CfgJob} (a b c : Word) (hq : s.seq = .allocating j) :
    mbAlloc a b c s = afterAlloc j (mboxAnswer (request tagAlloc [a, b, c] s) s)
      (mboxCall (request tagAlloc [a, b, c] s) s) := by
  unfold mbAlloc
  rw [hq]

theorem mbLock_of_locking {s : State} {j : CfgJob} (h : Word) (hq : s.seq = .locking j) :
    mbLock h s = afterLock j (mboxAnswer (request tagLock [h] s) s)
      (mboxCall (request tagLock [h] s) s) := by
  unfold mbLock
  rw [hq]

/-- A handle: MEM_STAGE 1, MB_LOCK next. -/
theorem mbAlloc_handle {s : State} {j : CfgJob} {a b c : Word} {ws : List Word}
    {as : List MboxAnswer} (hq : s.seq = .allocating j) (hm : s.env.mbox = .answered ws :: as)
    (hl : ws.length = 9) (h5 : ws.getD 5 0 ≠ 0) :
    mbAlloc a b c s = mbLock (ws.getD 5 0)
      { s.answeredWith (request tagAlloc [a, b, c] s) ws with
        seq := .locking j
        sess := { s.sess with memHandle := ws.getD 5 0, memStage := .allocated } } := by
  have hr : ws.length = (request tagAlloc [a, b, c] s).length := by simp [request_length, hl]
  rw [mbAlloc_of_allocating _ _ _ hq, mboxAnswer_answered hm hr, mboxCall_eq_answeredWith hm hr]
  exact if_neg h5

/-- Handle 0: AllocError AllocZero. -/
theorem mbAlloc_zero {s : State} {j : CfgJob} {a b c : Word} {ws : List Word}
    {as : List MboxAnswer} (hq : s.seq = .allocating j) (hm : s.env.mbox = .answered ws :: as)
    (hl : ws.length = 9) (h5 : ws.getD 5 0 = 0) :
    mbAlloc a b c s = .next (startRelease (.rollBack (.alloc .allocZero))
      (s.answeredWith (request tagAlloc [a, b, c] s) ws)) := by
  have hr : ws.length = (request tagAlloc [a, b, c] s).length := by simp [request_length, hl]
  rw [mbAlloc_of_allocating _ _ _ hq, mboxAnswer_answered hm hr, mboxCall_eq_answeredWith hm hr]
  exact if_pos h5

/-- A failed exchange: AllocError MboxFailed. -/
theorem mbAlloc_failed {s : State} {j : CfgJob} {a b c : Word} {as : List MboxAnswer}
    (hq : s.seq = .allocating j) (hm : s.env.mbox = .failed :: as) :
    mbAlloc a b c s = .next (startRelease (.rollBack (.alloc .mboxFailed))
      (s.failedWith (request tagAlloc [a, b, c] s))) := by
  rw [mbAlloc_of_allocating _ _ _ hq, mboxAnswer_failed hm, mboxCall_eq_failedWith hm]
  rfl

/-- A bus address: MEM_STAGE 2, the mapping next. -/
theorem mbLock_address {s : State} {j : CfgJob} {h : Word} {ws : List Word} {as : List MboxAnswer}
    (hq : s.seq = .locking j) (hm : s.env.mbox = .answered ws :: as) (hl : ws.length = 7)
    (h5 : ws.getD 5 0 ≠ 0xFFFFFFFF) :
    mbLock h s = mapBlock j
      { s.answeredWith (request tagLock [h] s) ws with
        seq := .idle
        sess := { s.sess with memBus := ws.getD 5 0, memStage := .locked } } := by
  have hr : ws.length = (request tagLock [h] s).length := by simp [request_length, hl]
  rw [mbLock_of_locking _ hq, mboxAnswer_answered hm hr, mboxCall_eq_answeredWith hm hr]
  exact if_neg h5

/-- All ones: AllocError LockFailed. -/
theorem mbLock_refused {s : State} {j : CfgJob} {h : Word} {ws : List Word} {as : List MboxAnswer}
    (hq : s.seq = .locking j) (hm : s.env.mbox = .answered ws :: as) (hl : ws.length = 7)
    (h5 : ws.getD 5 0 = 0xFFFFFFFF) :
    mbLock h s = .next (startRelease (.rollBack (.alloc .lockFailed))
      (s.answeredWith (request tagLock [h] s) ws)) := by
  have hr : ws.length = (request tagLock [h] s).length := by simp [request_length, hl]
  rw [mbLock_of_locking _ hq, mboxAnswer_answered hm hr, mboxCall_eq_answeredWith hm hr]
  exact if_pos h5

/-- A failed exchange: AllocError MboxFailed. -/
theorem mbLock_failed {s : State} {j : CfgJob} {h : Word} {as : List MboxAnswer}
    (hq : s.seq = .locking j) (hm : s.env.mbox = .failed :: as) :
    mbLock h s = .next (startRelease (.rollBack (.alloc .mboxFailed))
      (s.failedWith (request tagLock [h] s))) := by
  rw [mbLock_of_locking _ hq, mboxAnswer_failed hm, mboxCall_eq_failedWith hm]
  rfl

/-- A refused mapping: AllocError MapFailed. -/
theorem mapBlock_refused {s : State} {j : CfgJob} {ms : List (Option Word)}
    (hm : s.env.maps = none :: ms) :
    mapBlock j s = .next (startRelease (.rollBack (.alloc .mapFailed)) { s with
      env := s.env.popMap
      trace := s.trace ++
        [.mapPhys (s.sess.memBus &&& ~~~s.cfg.uncachedAliasMask) s.sess.blockBytes none] }) := by
  unfold mapBlock
  rw [nextMap_of hm, blockPhys_zero]

/-- A granted mapping: MEM_STAGE 3, a fresh block (log 11), and the rest of CFGPAT. -/
theorem mapBlock_granted {s : State} {j : CfgJob} {v : Word} {ms : List (Option Word)}
    (hm : s.env.maps = some v :: ms) :
    mapBlock j s = finishConfigure j { s with
      seq := .idle
      mem := []
      sess := { s.sess with memVirt := v, memStage := .mapped }
      env := s.env.popMap
      trace := s.trace ++
        [.mapPhys (s.sess.memBus &&& ~~~s.cfg.uncachedAliasMask) s.sess.blockBytes (some v)] } := by
  unfold mapBlock
  rw [nextMap_of hm, blockPhys_zero]

end Sys2Proof.Machine
end

