-- ==== Sys2Proof/Laws/Invariant.lean ====
section
/-! SUPPORT. The invariant without its clauses on the micro-sequence, and what keeps it: the ends of
commands, the release chain, the allocation chain, DmaWait. -/

namespace Sys2Proof.Machine

theorem Steady.inv {s : State} (h : Steady s) (hp : SeqOk s) (hb : s.chan.busy = decide (s.seq ≠ .idle)) :
    Inv s := ⟨h, hp, hb⟩

/-- Buffer, micro-sequence, answers, history and BUSY do not count. -/
theorem Steady.of_eq {s t : State} (h : Steady s) (hc : t.cfg = s.cfg) (hs : t.sess = s.sess)
    (hw : t.win = s.win) (hm : t.mem = s.mem) (hi : t.inflight = s.inflight)
    (hr : t.chan.resetLine = s.chan.resetLine) : Steady t := by
  obtain ⟨h1, h2, h3, h4, h5, h6, h7⟩ := h
  refine ⟨by rwa [hc], by rwa [hr], by rwa [hm], by rwa [hi, hs], ?_, ?_, by rwa [hc, hs]⟩
  · intro hl
    exact (h5 (by rwa [← hs])).of_eq hc hw (by rw [hs])
  · intro hl
    obtain ⟨a, b, c, d⟩ := h6 (by rwa [← hs])
    exact ⟨by rwa [hw], by rwa [hw], by rwa [hw], by rwa [hw]⟩

/-- While no pattern is valid, the registers a CFGPAT fills do not count. -/
theorem Steady.of_unconfigured {s t : State} (h : Steady s) (hc : t.cfg = s.cfg)
    (hst : t.sess.state = s.sess.state) (hv : t.sess.patternValid = false)
    (hch : t.sess.channel = s.sess.channel) (hw : t.win = s.win) (hm : t.mem.wf)
    (hi : t.inflight = s.inflight) (hr : t.chan.resetLine = s.chan.resetLine) : Steady t := by
  obtain ⟨h1, h2, -, h4, h5, h6, -⟩ := h
  have hl : t.sess.live = s.sess.live := by simp [Session.live, hst]
  refine ⟨by rwa [hc], by rwa [hr], hm, by rwa [hi, hst], ?_, ?_, by simp [hv]⟩
  · intro h
    exact (h5 (hl ▸ h)).of_eq hc hw hch
  · intro h
    obtain ⟨a, b, c, d⟩ := h6 (hl ▸ h)
    exact ⟨by rwa [hw], by rwa [hw], by rwa [hw], by rwa [hw]⟩

/-- MEM_STAGE does not count. -/
theorem Steady.staged {s : State} (h : Steady s) (m : MemStage) :
    Steady { s with sess := { s.sess with memStage := m } } := by
  obtain ⟨h1, h2, h3, h4, h5, h6, h7⟩ := h
  refine ⟨h1, h2, h3, h4, fun hl => (h5 hl).of_eq rfl rfl rfl, fun hl => ?_, fun hv => ?_⟩
  · obtain ⟨a, b, c, d⟩ := h6 hl
    exact ⟨a, b, c, d⟩
  · obtain ⟨a, b, c, d⟩ := h7 hv
    exact ⟨a, b, c, d⟩

/-! ## The ends of commands -/

/-- A command that responds from a settled state leaves the invariant. -/
theorem Steady.respond {s : State} (h : Steady s) (hw : s.mbox.waiting = false)
    (hs : Settled s.sess) (ws : List Word) : Inv (Machine.respond ws s) :=
  (h.of_eq rfl rfl rfl rfl rfl rfl : Steady (Machine.respond ws s)).inv ⟨hw, hs⟩ rfl

/-- A failed CFGPAT (44_session.md R218). -/
theorem Steady.failConfigure {s : State} (h : Steady s) (hw : s.mbox.waiting = false)
    (hc : Configuring s.sess) (e : CmdError) : Inv (Machine.failConfigure e s) := by
  obtain ⟨h1, h2⟩ := hc
  have hl : s.sess.live = true := by simp [Session.live, h1]
  have hi : s.inflight = false := by
    have := h.inflight
    rw [h1] at this
    simpa using this
  refine ⟨⟨h.config, h.noReset, h.canonical, ?_, ?_, ?_, ?_⟩, ?_, rfl⟩
  · simp [hi]
  · intro _
    exact (h.opened hl).of_eq rfl rfl rfl
  · intro hn
    simp [Session.live, Session.unspecified, h1] at hn
  · intro hv
    simp [Session.unspecified, h2] at hv
  · refine ⟨hw, ?_⟩
    constructor <;> simp [Session.unspecified, h1, h2]

/-- A finished SHUTDOWN (44_session.md R222) that leaves nothing in flight. -/
theorem finishShutdown_inv {s : State} (h : Steady s) (hw : s.mbox.waiting = false)
    {n : Option CmdError} (hi : inflightAfterShutdown n s.inflight = false) :
    Inv (finishShutdown n s) := by
  have hr := finishShutdown_responded n hw
  have hreset : (finishShutdown n s).chan.resetLine = false := by
    unfold finishShutdown; cases n <;> simpa using h.noReset
  refine ⟨⟨by simpa using h.config, hreset, by simpa using h.canonical, by simp [hi], ?_,
    fun _ => finishShutdown_closed n s, by simp⟩, ?_, by simp [hr.notBusy]⟩
  · intro hl
    simp [Session.live] at hl
  · rw [SeqOk, finishShutdown_seq]
    refine ⟨hr.notWaiting, ?_⟩
    constructor <;> simp

/-! ## The release chain -/

/-- STATE, PATTERN_VALID and INFLIGHT are all that counts. -/
theorem ReleaseOk.of_eq {s t : State} {r : Releaser} (h : ReleaseOk s r)
    (hs : t.sess.state = s.sess.state) (hv : t.sess.patternValid = s.sess.patternValid)
    (hi : t.inflight = s.inflight) : ReleaseOk t r := by
  cases r with
  | rollBack e => simpa only [ReleaseOk, Configuring, hs, hv] using h
  | shutdown n =>
    obtain ⟨h1, h2, h3, h4⟩ := h
    constructor <;> simp only [Session.live, hs, hv, hi] <;> assumption

theorem afterExchange_proper {r : Releaser} (h : r.proper = true) (a : MboxAnswer) :
    (r.afterExchange a).proper = true := by
  rcases r with e | _ | n
  · exact h
  · cases a <;> rfl
  · exact h

theorem ReleaseOk.afterExchange {s : State} {k : Releaser} (h : ReleaseOk s k) (a : MboxAnswer) :
    ReleaseOk s (k.afterExchange a) := by
  rcases k with e | _ | n
  · exact h
  · cases a with
    | failed => exact ⟨h.live, h.valid, h.quiet, nofun⟩
    | _ => exact h
  · exact h

theorem Steady.finishRelease {s : State} {r : Releaser} (h : Steady s)
    (hw : s.mbox.waiting = false) (hr : ReleaseOk s r) : Inv (Machine.finishRelease r s) := by
  cases r with
  | rollBack e => exact h.failConfigure hw hr e
  | shutdown n => exact finishShutdown_inv h hw hr.quiet

/-- After an exchange that is not pending the buffer is back. -/
theorem mboxCall_waiting {m : List Word} {s : State} (h : mboxAnswer m s ≠ .pending) :
    (mboxCall m s).mbox.waiting = false := by simp [h]

/-- While an exchange is pending the buffer holds the request. -/
theorem mboxCall_awaits {tag : Word} {args : List Word} {s : State}
    (h : mboxAnswer (request tag args s) s = .pending) :
    Awaits (mboxCall (request tag args s) s) tag args := by
  refine ⟨by simp [h], ?_⟩
  simp only [mboxCall_mbox, h, bufferAfter]
  rfl

theorem Steady.mboxCall {s : State} (h : Steady s) (m : List Word) :
    Steady (Machine.mboxCall m s) := h.of_eq rfl rfl rfl rfl rfl rfl

/-- MB_FREE of a release, from MEM_STAGE 1. -/
theorem Steady.mbFree {s : State} {r : Releaser} (h : Steady s) (hq : s.seq = .freeing r)
    (hp : r.proper = true) (hm : s.sess.memStage = .allocated) (hr : ReleaseOk s r)
    (hb : s.chan.busy = true) : Inv (Machine.mbFree s.sess.memHandle s) := by
  rcases mbFree_cases s.sess.memHandle s with ⟨e, hn | hpend⟩ | ⟨r', hr', hpend, e⟩
  · exact absurd hq (hn r)
  · rw [e]
    refine (h.mboxCall _).inv ?_ (by simp [hq, hb])
    rw [SeqOk, mboxCall_seq, hq]
    exact ⟨mboxCall_awaits hpend, hp, hm, hr.of_eq rfl rfl rfl⟩
  · obtain rfl : r = r' := by simpa using hq.symm.trans hr'
    rw [e]
    exact (h.mboxCall _).finishRelease (mboxCall_waiting hpend)
      ((hr.afterExchange _).of_eq rfl rfl rfl)

/-- MB_UNLOCK of a release, from MEM_STAGE 2. -/
theorem Steady.mbUnlock {s : State} {r : Releaser} (h : Steady s) (hq : s.seq = .unlocking r)
    (hp : r.proper = true) (hm : s.sess.memStage = .locked) (hr : ReleaseOk s r)
    (hb : s.chan.busy = true) : Inv (Machine.mbUnlock s.sess.memHandle s) := by
  rcases mbUnlock_cases s.sess.memHandle s with ⟨e, hn | hpend⟩ | ⟨r', hr', hpend, e⟩
  · exact absurd hq (hn r)
  · rw [e]
    refine (h.mboxCall _).inv ?_ (by simp [hq, hb])
    rw [SeqOk, mboxCall_seq, hq]
    exact ⟨mboxCall_awaits hpend, hp, hm, hr.of_eq rfl rfl rfl⟩
  · obtain rfl : r = r' := by simpa using hq.symm.trans hr'
    rw [e]
    exact Steady.mbFree (s := { Machine.mboxCall _ s with seq := _, sess := _ })
      ((h.staged _).of_eq rfl rfl rfl rfl rfl rfl) rfl (afterExchange_proper hp _) rfl
      ((hr.afterExchange _).of_eq rfl rfl rfl) hb

/-- A release by CFGPAT, from MEM_STAGE 0, 1 or 2. -/
theorem Steady.rollBack {s : State} {c : AllocCause} (h : Steady s) (hw : s.mbox.waiting = false)
    (hc : Configuring s.sess) (hs : s.sess.memStage ≠ .mapped) (hb : s.chan.busy = true) :
    Inv (startRelease (.rollBack (.alloc c)) s) := by
  cases hm : s.sess.memStage with
  | none =>
    rw [startRelease_none hm]
    exact h.failConfigure hw hc _
  | allocated =>
    rw [startRelease_allocated hm]
    exact Steady.mbFree (s := { s with seq := .freeing (.rollBack (.alloc c)) })
      (h.of_eq rfl rfl rfl rfl rfl rfl) rfl rfl hm hc hb
  | locked =>
    rw [startRelease_locked hm]
    exact Steady.mbUnlock (s := { s with seq := .unlocking (.rollBack (.alloc c)) })
      (h.of_eq rfl rfl rfl rfl rfl rfl) rfl rfl hm hc hb
  | mapped => exact absurd hm hs

/-- A release by SHUTDOWN, from a settled state, that leaves nothing in flight. -/
theorem Steady.release {s : State} {n : Option CmdError} (h : Steady s)
    (hw : s.mbox.waiting = false) (hs : Settled s.sess)
    (hi : inflightAfterShutdown n s.inflight = false) (hp : (Releaser.shutdown n).proper = true)
    (hg : ∀ g, n = some (.dmaError g) → s.sess.state = .sending) (hb : s.chan.busy = true) :
    Inv (startRelease (.shutdown n) s) := by
  rcases hs.stage with hm | hm
  · rw [startRelease_none hm]
    exact finishShutdown_inv h hw hi
  · rw [startRelease_mapped hm]
    have hv := hs.valid.mpr hm
    exact Steady.mbUnlock (s := { record _ s with seq := _, sess := _ }) (r := .shutdown n)
      ((h.staged _).of_eq rfl rfl rfl rfl rfl rfl) rfl hp rfl ⟨hs.live hv, hv, hi, hg⟩ hb

/-! ## The allocation chain -/

/-- The registers of a finished CFGPAT (44_session.md R217, 10_state.md R29, R30). -/
theorem Steady.configured {s : State} {j : CfgJob} (h : Steady s) (hc : s.sess.state = .configured)
    (hj : JobOk s.cfg s.sess j) (m : Memory) (hm : m.wf) (es : List Event) :
    Steady { s with
      sess := s.sess.configured j (jobDivisor s.cfg j), mem := m, trace := es } := by
  obtain ⟨hd, hs, -⟩ := (Config.valid_iff _).mp h.config
  have hl : s.sess.live = true := by simp [Session.live, hc]
  have hdiv := solveUnscaled_range hd s.cfg.baseClockHz.toNat (j.widthBits.toNat * j.freqHz.toNat)
  have hsmall : s.cfg.maxDivisor < 4294967296 :=
    lt_of_le_of_lt (Nat.le_mul_of_pos_right _ (Nat.two_pow_pos _)) hs
  have hlay := hj.layout
  rw [← hj.block] at hlay
  have hdiv' : (jobDivisor s.cfg j).toNat =
      solveUnscaled s.cfg.maxDivisor s.cfg.baseClockHz.toNat (j.widthBits.toNat * j.freqHz.toNat) :=
    trunc32_toNat (by omega)
  refine ⟨h.config, h.noReset, hm, h.inflight, fun _ => (h.opened hl).of_eq rfl rfl rfl, ?_,
    fun _ => ⟨hlay, ?_, ?_, rfl⟩⟩
  · intro hn
    exact absurd (hl.symm.trans hn) (by simp)
  · show 1 ≤ (jobDivisor s.cfg j).toNat
    omega
  · show (jobDivisor s.cfg j).toNat ≤ s.cfg.maxDivisor
    omega

/-- The end of CFGPAT: from a mapped block the pattern is valid. -/
theorem Steady.finishConfigure {s : State} {j : CfgJob} (h : Steady s)
    (hw : s.mbox.waiting = false) (hc : Configuring s.sess) (hm : s.sess.memStage = .mapped)
    (hj : JobOk s.cfg s.sess j) : ∃ t, Machine.finishConfigure j s = .next t ∧ Inv t := by
  have hl : s.sess.live = true := by simp [Session.live, hc.1]
  have hfit := hj.layout.fits
  rw [← hj.block] at hfit
  refine ⟨_, finishConfigure_eq (h.opened hl) h.config hm hfit, ?_⟩
  refine Steady.respond (h.configured hc.1 hj _ ?_ _) (by exact hw) ?_ _
  · exact Memory.writeWords_wf (Memory.writeWords_wf h.canonical _ _) _ _
  · constructor <;> simp [Session.configured, Session.live, hc.1, hm]

theorem Steady.mapBlock {s : State} {j : CfgJob} (h : Steady s) (hw : s.mbox.waiting = false)
    (hc : Configuring s.sess) (hm : s.sess.memStage = .locked) (hj : JobOk s.cfg s.sess j)
    (hb : s.chan.busy = true) : ∃ t, Machine.mapBlock j s = .next t ∧ Inv t := by
  have hv : s.sess.patternValid = false := hc.2
  unfold Machine.mapBlock
  cases s.env.nextMap with
  | none =>
    refine ⟨_, rfl, ?_⟩
    exact Steady.rollBack (h.of_eq rfl rfl rfl rfl rfl rfl) hw hc (by simp [hm]) hb
  | some v =>
    apply Steady.finishConfigure
    · exact h.of_unconfigured rfl rfl hv rfl rfl List.Pairwise.nil rfl rfl
    · exact hw
    · exact hc
    · rfl
    · exact ⟨hj.layout, hj.block⟩

/-- MB_LOCK's outcome, whatever it is. -/
theorem Steady.mbLock {s : State} {j : CfgJob} (h : Steady s) (hq : s.seq = .locking j)
    (hc : Configuring s.sess) (hm : s.sess.memStage = .allocated) (hj : JobOk s.cfg s.sess j)
    (hb : s.chan.busy = true) : ∃ t, Machine.mbLock s.sess.memHandle s = .next t ∧ Inv t := by
  rw [mbLock_of_locking _ hq]
  have hv : s.sess.patternValid = false := hc.2
  cases ha : mboxAnswer (request tagLock [s.sess.memHandle] s) s with
  | pending =>
    refine ⟨_, rfl, (h.mboxCall _).inv ?_ (by simp [hq, hb])⟩
    rw [SeqOk, mboxCall_seq, hq]
    exact ⟨mboxCall_awaits ha, hc, hm, hj⟩
  | failed =>
    exact ⟨_, rfl, Steady.rollBack (h.mboxCall _) (mboxCall_waiting (by simp [ha])) hc
      (by simp [hm]) hb⟩
  | answered ws =>
    have hw := mboxCall_waiting (m := request tagLock [s.sess.memHandle] s) (s := s) (by simp [ha])
    simp only [afterLock]
    split
    · exact ⟨_, rfl, Steady.rollBack (h.mboxCall _) hw hc (by simp [hm]) hb⟩
    · refine Steady.mapBlock ?_ hw hc rfl ⟨hj.layout, hj.block⟩ hb
      exact h.of_unconfigured rfl rfl hv rfl rfl h.canonical rfl rfl

/-- MB_ALLOC's outcome, whatever it is. -/
theorem Steady.mbAlloc {s : State} {j : CfgJob} (h : Steady s) (hq : s.seq = .allocating j)
    (hc : Configuring s.sess) (hm : s.sess.memStage = .none) (hj : JobOk s.cfg s.sess j)
    (hb : s.chan.busy = true) :
    ∃ t, Machine.mbAlloc s.sess.blockBytes s.cfg.pageAlignment s.cfg.cacheFlags s = .next t ∧
      Inv t := by
  rw [mbAlloc_of_allocating _ _ _ hq]
  have hv : s.sess.patternValid = false := hc.2
  cases ha : mboxAnswer
      (request tagAlloc [s.sess.blockBytes, s.cfg.pageAlignment, s.cfg.cacheFlags] s) s with
  | pending =>
    refine ⟨_, rfl, (h.mboxCall _).inv ?_ (by simp [hq, hb])⟩
    rw [SeqOk, mboxCall_seq, hq]
    exact ⟨mboxCall_awaits ha, hc, hm, hj⟩
  | failed =>
    exact ⟨_, rfl, Steady.rollBack (h.mboxCall _) (mboxCall_waiting (by simp [ha])) hc
      (by simp [hm]) hb⟩
  | answered ws =>
    have hw := mboxCall_waiting
      (m := request tagAlloc [s.sess.blockBytes, s.cfg.pageAlignment, s.cfg.cacheFlags] s) (s := s)
      (by simp [ha])
    simp only [afterAlloc]
    split
    · exact ⟨_, rfl, Steady.rollBack (h.mboxCall _) hw hc (by simp [hm]) hb⟩
    · refine Steady.mbLock (s := { Machine.mboxCall _ s with seq := _, sess := _ }) ?_ rfl hc rfl
        ⟨hj.layout, hj.block⟩ hb
      exact h.of_unconfigured rfl rfl hv rfl rfl h.canonical rfl rfl

/-- Allocate (42_mailbox_allocator.md R179). -/
theorem Steady.allocate {s : State} {j : CfgJob} (h : Steady s) (hc : Configuring s.sess)
    (hm : s.sess.memStage = .none) (hj : JobOk s.cfg s.sess j) (hb : s.chan.busy = true) :
    ∃ t, Machine.allocate j s = .next t ∧ Inv t :=
  Steady.mbAlloc (s := { s with seq := .allocating j }) (h.of_eq rfl rfl rfl rfl rfl rfl) rfl hc hm
    hj hb

end Sys2Proof.Machine
end

