-- ==== Sys2Proof/Laws/Commands.lean ====
section
/-! SUPPORT. What SEND, WAIT, SHUTDOWN, CFGPAT and INIT answer from a state that meets the invariant,
once their frame is accepted: a next state, and the invariant there. -/

namespace Sys2Proof.Machine

/-- A command's frame has just been accepted. -/
structure Accepted (s : State) : Prop extends AtCommand s where
  busy : s.chan.busy = true

/-- Accepting a frame in the ready state (30_encoding.md R100). -/
theorem Inv.accepted {s : State} (h : Inv s) (hq : s.seq = .idle) (f : List Word)
    (rest : List (List Word)) : Accepted (accept f rest s) := by
  have hp := h.position
  rw [SeqOk, hq] at hp
  exact ⟨⟨h.toSteady.of_eq rfl rfl rfl rfl rfl rfl, hp.1, hp.2⟩, rfl⟩

/-- Between commands too a command's meaning may be run. -/
theorem Inv.atCommand {s : State} (h : Inv s) (hq : s.seq = .idle) : AtCommand s := by
  have hp := h.position
  rw [SeqOk, hq] at hp
  exact ⟨h.toSteady, hp.1, hp.2⟩

/-- So is a state whose command is about to poll again. -/
theorem Inv.polling {s : State} {k : Poller} (h : Inv s) (hq : s.seq = .polling k) :
    Accepted s ∧ s.sess.state = .sending := by
  have hp := h.position
  have hb := h.busy
  rw [SeqOk, hq] at hp
  exact ⟨⟨⟨h.toSteady, hp.1, hp.2.1⟩, by rw [hb, hq]; rfl⟩, hp.2.2⟩

theorem Accepted.respond {s : State} (h : Accepted s) (ws : List Word) :
    Inv (Machine.respond ws s) := h.steady.respond h.notWaiting h.settled ws

/-- Answers, history and micro-sequence do not count. -/
theorem Accepted.of_eq {s t : State} (h : Accepted s) (hc : t.cfg = s.cfg) (hs : t.sess = s.sess)
    (hw : t.win = s.win) (hm : t.mem = s.mem) (hi : t.inflight = s.inflight)
    (hx : t.mbox = s.mbox) (hn : t.chan = s.chan) : Accepted t :=
  ⟨⟨h.steady.of_eq hc hs hw hm hi (by rw [hn]), by rw [hx]; exact h.notWaiting,
    by rw [hs]; exact h.settled⟩, by rw [hn]; exact h.busy⟩

/-- FAULT does not count either (10_state.md R25). -/
theorem Accepted.faulted {s : State} (h : Accepted s) :
    Accepted { s with sess := { s.sess with fault := true } } := by
  obtain ⟨⟨⟨h1, h2, h3, h4, h5, h6, h7⟩, hw, ⟨g1, g2, g3, g4⟩⟩, hb⟩ := h
  refine ⟨⟨⟨h1, h2, h3, h4, fun hl => (h5 hl).of_eq rfl rfl rfl, fun hl => ?_, fun hv => ?_⟩, hw,
    ⟨g1, g2, g3, g4⟩⟩, hb⟩
  · obtain ⟨a, b, c, d⟩ := h6 hl
    exact ⟨a, b, c, d⟩
  · obtain ⟨a, b, c, d⟩ := h7 hv
    exact ⟨a, b, c, d⟩

/-- Moving between Configured and Sending with nothing in flight. -/
theorem Accepted.moved {s : State} (h : Accepted s) (hl : s.sess.live = true) (p : Phase)
    (hp : p = .configured ∨ (p = .sending ∧ s.sess.patternValid = true)) (b : Bool)
    (hb : b = true → p = .sending) :
    Accepted { s with sess := { s.sess with state := p }, inflight := b } := by
  obtain ⟨⟨⟨h1, h2, h3, h4, h5, h6, h7⟩, hw, ⟨g1, g2, g3, g4⟩⟩, hbusy⟩ := h
  have hlive : Session.live { s.sess with state := p } = true := by
    rcases hp with rfl | ⟨rfl, -⟩ <;> simp [Session.live]
  refine ⟨⟨⟨h1, h2, h3, hb, fun _ => (h5 hl).of_eq rfl rfl rfl, fun hn => ?_, fun hv => ?_⟩, hw,
    ⟨g1, g2, fun _ => hlive, fun hs => ?_⟩⟩, hbusy⟩
  · exact absurd (hlive.symm.trans hn) (by simp)
  · obtain ⟨a, b, c, d⟩ := h7 hv
    exact ⟨a, b, c, d⟩
  · rcases hp with rfl | ⟨-, hv⟩
    · simp at hs
    · exact hv

/-- Nor do the block's bytes, as long as they keep their form. -/
theorem Accepted.written {s : State} (h : Accepted s) {m : Memory} (hm : m.wf) :
    Accepted { s with mem := m } := by
  obtain ⟨⟨⟨h1, h2, h3, h4, h5, h6, h7⟩, hw, hs⟩, hb⟩ := h
  refine ⟨⟨⟨h1, h2, hm, h4, fun hl => (h5 hl).of_eq rfl rfl rfl, fun hl => ?_, h7⟩, hw, hs⟩, hb⟩
  obtain ⟨a, b, c, d⟩ := h6 hl
  exact ⟨a, b, c, d⟩

/-! ## SEND -/

/-- SEND after its wait (44_session.md R219). -/
theorem Accepted.startSend {s : State} (h : Accepted s) (hv : s.sess.patternValid = true)
    (payload : List Byte) : ∃ t, Machine.startSend payload s = .next t ∧ Inv t := by
  have hl := h.settled.live hv
  refine ⟨_, startSend_eq payload (h.steady.opened hl) h.steady.config (h.settled.valid.mp hv)
    (h.steady.pattern hv), ?_⟩
  have hm := (h.moved hl .sending (.inr ⟨rfl, hv⟩) true (fun _ => rfl)).written
    (Memory.writeWords_wf h.steady.canonical (patternVirt s.cfg s.sess)
      (fillRegion (s.sess.patternBytes.toNat / 4) (encodeWords payload s.sess.pattern)))
  exact Accepted.respond (by exact hm.of_eq rfl rfl rfl rfl rfl rfl rfl) _

/-! ## SHUTDOWN -/

/-- Disabling the PWM where its window is open (44_session.md R222). -/
theorem Accepted.emitIfOpen {s : State} (h : Accepted s) (a : Action) (n : WinName)
    (hn : s.sess.live = false → (s.win.get n).isOpen = false)
    (ha : a.sessionAction s.cfg) (hi : a.inflightAfter s.inflight = s.inflight) :
    ∃ t, (if (s.win.get n).isOpen then emit a s else .next s) = .next t ∧ Accepted t ∧
      t.sess = s.sess ∧ t.inflight = s.inflight := by
  by_cases ho : (s.win.get n).isOpen = true
  · have hl : s.sess.live = true := by
      by_contra hc
      have := hn (by simpa using hc)
      simp [ho] at this
    rw [if_pos ho, emit_of_ready (h.steady.opened hl) ha]
    exact ⟨_, rfl, h.of_eq (by simp) (by simp) (by simp) (by simp) (by simpa using hi) (by simp)
      (by simp), by simp, by simpa using hi⟩
  · rw [if_neg ho]
    exact ⟨s, rfl, h, rfl, rfl⟩

/-- SHUTDOWN after its wait (44_session.md R222), when its end leaves nothing in flight. -/
theorem Accepted.leaveSession {s : State} {n : Option CmdError} (h : Accepted s)
    (hi : inflightAfterShutdown n s.inflight = false) (hp : (Releaser.shutdown n).proper = true)
    (hg : ∀ g, n = some (.dmaError g) → s.sess.state = .sending) :
    ∃ t, Machine.leaveSession n s = .next t ∧ Inv t := by
  unfold Machine.leaveSession
  obtain ⟨a, ea, ha, sa, ia⟩ := h.emitIfOpen (.pwmDisable s.sess.channel) .pwm
    (fun hl => (h.steady.closed hl).pwm) trivial rfl
  obtain ⟨b, eb, hb, sb, ib⟩ := ha.emitIfOpen .clkStop .cm
    (fun hl => (ha.steady.closed hl).cm) trivial rfl
  replace ea : (if s.win.pwm.isOpen then emit (.pwmDisable s.sess.channel) s else .next s) =
    Host.Outcome.next a := ea
  replace eb : (if a.win.cm.isOpen then emit .clkStop a else .next a) = Host.Outcome.next b := eb
  rw [ea, andThen_next, eb, andThen_next]
  exact ⟨_, rfl, hb.steady.release hb.notWaiting hb.settled (by rw [ib, ia, hi]) hp
    (by rw [sb, sa]; exact hg) hb.busy⟩

/-! ## DmaWait -/

/-- What follows a normal return. -/
theorem Accepted.afterWait {s : State} (h : Accepted s) (hs : s.sess.state = .sending)
    (hi : s.inflight = false) (k : Poller) : ∃ t, Machine.afterWait k s = .next t ∧ Inv t := by
  have hl : s.sess.live = true := by simp [Session.live, hs]
  have hc := h.moved hl .configured (.inl rfl) s.inflight (by simp [hi])
  cases k with
  | wait => exact ⟨_, rfl, hc.respond _⟩
  | send payload =>
    exact hc.startSend (by simpa using h.settled.sending hs) payload
  | shutdown => exact h.leaveSession hi rfl nofun

/-- What follows a DMA error. -/
theorem Accepted.afterWaitError {s : State} (h : Accepted s) (hs : s.sess.state = .sending)
    (k : Poller) (g : Word) :
    ∃ t, Machine.afterWaitError k g s = .next t ∧ Inv t := by
  cases k with
  | wait => exact ⟨_, rfl, h.respond _⟩
  | send payload => exact ⟨_, rfl, h.respond _⟩
  | shutdown => exact h.leaveSession rfl rfl fun _ _ => hs

/-- One poll (43_dma_engine.md R196), whatever the status word. -/
theorem Accepted.dmaPoll {s : State} (h : Accepted s) (hs : s.sess.state = .sending)
    (k : Poller) : ∃ t, Machine.dmaPoll k s = .next t ∧ Inv t := by
  have hl : s.sess.live = true := by simp [Session.live, hs]
  have hw := h.steady.opened hl
  have ha : Accepted (perform .dmaReadCs s) :=
    h.of_eq (by simp) (by simp) (by simp) (by simp) (by simp [Action.inflightAfter]) (by simp)
      (by simp)
  unfold Machine.dmaPoll
  rw [emit_of_ready hw (a := .dmaReadCs) trivial, andThen_next]
  dsimp only
  split
  · rw [emit_of_ready (hw.perform _) (a := .dmaReadDebug) trivial, andThen_next]
    have hb : Accepted (perform .dmaReadDebug (perform .dmaReadCs s)) :=
      ha.of_eq (by simp) (by simp) (by simp) (by simp) (by simp [Action.inflightAfter]) (by simp)
        (by simp)
    apply Accepted.afterWaitError
    · exact hb.faulted.of_eq rfl rfl rfl rfl rfl rfl rfl
    · simpa using hs
  · split
    · have hm := ha.moved (by simpa using hl) s.sess.state
        (.inr ⟨hs, by simpa using h.settled.sending hs⟩) false (by simp)
      apply Accepted.afterWait
      · exact hm.of_eq rfl (by simp) rfl rfl rfl rfl rfl
      · simpa using hs
      · rfl
    · refine ⟨_, rfl, Steady.inv (ha.steady.of_eq rfl rfl rfl rfl rfl rfl) ?_ ?_⟩
      · exact ⟨by simpa using h.notWaiting, by simpa using h.settled, by simpa using hs⟩
      · simpa using h.busy

/-! ## CFGPAT -/

/-- The sizes R215 gives fit together (44_session.md R216). -/
theorem sizes_fit {c : Config} (hc : c.valid = true) (n f r w : Nat) :
    patternBytes n f r w % 4 = 0 ∧ blockBytes c n f r w % c.pageSize = 0 ∧
      c.descBytes + patternBytes n f r w ≤ blockBytes c n f r w ∧
      encodedLength n w ≤ patternBytes n f r w / 4 := by
  obtain ⟨-, -, -, hp, -⟩ := (Config.valid_iff _).mp hc
  have hpos : 0 < c.pageSize := by rw [hp]; exact Nat.two_pow_pos _
  have h1 := roundUp_spec (ceilDiv (dataBits n w + gapBits f r w) 8) (m := 4) (by omega)
  have h2 := roundUp_spec (patternBytes n f r w + c.descBytes) hpos
  refine ⟨h1.1, h2.1, by have := h2.2.1; unfold blockBytes; omega, ?_⟩
  unfold patternBytes at *
  unfold encodedLength ceilDiv dataBits at *
  omega

/-- What CFGPAT has computed before it allocates (44_session.md R217). -/
theorem cfgJob_ok {c : Config} (hc : c.valid = true) {z o : Nat} {p : BitPattern} (n f r : Word)
    (hz : z ≤ 100) (ho : o ≤ 100) (hp : chooseWidth z o = some p)
    (hb : blockBytes c n.toNat f.toNat r.toNat p.widthBits < 2 ^ 32) (s : Session) :
    JobOk c
      { s with blockBytes := trunc32 (blockBytes c n.toNat f.toNat r.toNat p.widthBits) }
      (cfgJob n f r p (patternBytes n.toNat f.toNat r.toNat p.widthBits)
        (blockBytes c n.toNat f.toNat r.toNat p.widthBits)) := by
  obtain ⟨w3, w16, hz2, ho2, hne⟩ := chooseWidth_some hz ho hp
  obtain ⟨s1, s2, s3, s4⟩ := sizes_fit hc n.toNat f.toNat r.toNat p.widthBits
  have hlt : patternBytes n.toNat f.toNat r.toNat p.widthBits < 2 ^ 32 := by omega
  have hpow : 2 ^ p.widthBits ≤ 2 ^ 16 := Nat.pow_le_pow_right (by omega) w16
  have e1 : (BitVec.ofNat 5 p.widthBits).toNat = p.widthBits := by
    rw [BitVec.toNat_ofNat, Nat.mod_eq_of_lt (by omega)]
  have e2 : (BitVec.ofNat 16 p.zeroCode).toNat = p.zeroCode := by
    rw [BitVec.toNat_ofNat, Nat.mod_eq_of_lt (by omega)]
  have e3 : (BitVec.ofNat 16 p.oneCode).toNat = p.oneCode := by
    rw [BitVec.toNat_ofNat, Nat.mod_eq_of_lt (by omega)]
  have e4 := trunc32_toNat (n := patternBytes n.toNat f.toNat r.toNat p.widthBits) hlt
  have e5 := trunc32_toNat (n := blockBytes c n.toNat f.toNat r.toNat p.widthBits) hb
  refine ⟨⟨?_, ?_, ?_, ?_, ?_, ⟨z, o, hz, ho, ?_⟩, ?_, ?_, ?_, ?_⟩, rfl⟩
  · simpa only [cfgJob, e1] using w3
  · simpa only [cfgJob, e1] using w16
  · simpa only [cfgJob, e1, e2] using hz2
  · simpa only [cfgJob, e1, e3] using ho2
  · intro h
    apply hne
    have := congrArg BitVec.toNat h
    simpa only [cfgJob, e2, e3] using this
  · simpa only [cfgJob, e1, e2, e3] using hp
  · simpa only [cfgJob, e4] using s1
  · simpa only [cfgJob, e5] using s2
  · simpa only [cfgJob, e4, e5] using s3
  · simpa only [cfgJob, e1, e4] using s4

/-- CFGPAT (44_session.md R217). -/
theorem Accepted.execCfgpat {s : State} (h : Accepted s) (n f r z o : Word) :
    ∃ t, Machine.execCfgpat n f r z o s = .next t ∧ Inv t := by
  unfold Machine.execCfgpat
  split
  · exact ⟨_, rfl, h.respond _⟩
  · rename_i hcan
    split
    · exact ⟨_, rfl, h.respond _⟩
    · rename_i hop
      split
      · exact ⟨_, rfl, h.respond _⟩
      · rename_i p hp
        dsimp only
        split
        · exact ⟨_, rfl, h.respond _⟩
        · rename_i hbb
          have hcan' : s.sess.state = .configured ∧ s.sess.patternValid = false := by
            simpa [Session.canConfigure] using hcan
          have hop' : (z.toNat ≤ 100 ∧ o.toNat ≤ 100) ∧ ¬ f = 0 := by
            simpa [cfgpatOperandsOk, percentOk, and_assoc] using hop
          have hstage : s.sess.memStage = .none := by
            rcases h.settled.stage with hm | hm
            · exact hm
            · have := h.settled.valid.mpr hm
              simp [hcan'.2] at this
          have hj := cfgJob_ok h.steady.config n f r hop'.1.1 hop'.1.2 hp (by omega) s.sess
          exact Steady.allocate
            (by exact h.steady.of_unconfigured rfl rfl hcan'.2 rfl rfl h.steady.canonical rfl rfl)
            (by exact hcan') (by exact hstage) (by exact hj) (by exact h.busy)

/-! ## INIT -/

/-- Opening windows touches only window records, answers and history. -/
theorem openWindows_frame (ws : List (WinName × Word)) (s : State) :
    (openWindows ws s).2.cfg = s.cfg ∧ (openWindows ws s).2.sess = s.sess ∧
      (openWindows ws s).2.mem = s.mem ∧ (openWindows ws s).2.mbox = s.mbox ∧
      (openWindows ws s).2.seq = s.seq ∧ (openWindows ws s).2.inflight = s.inflight ∧
      (openWindows ws s).2.chan = s.chan := by
  induction ws generalizing s with
  | nil => simp [openWindows]
  | cons w ws ih =>
    obtain ⟨n, phys⟩ := w
    unfold openWindows
    split
    · have := ih (winOpen n phys s)
      split <;> simp_all
    · simp

/-- All granted: each window of the list is open at its address, the others as before. -/
theorem openWindows_granted {ws : List (WinName × Word)} {s t : State}
    (h : openWindows ws s = (none, t)) :
    t.win = ws.foldl (fun v w =>
      v.set w.1 { phys := w.2, len := s.cfg.windowLen, isOpen := true }) s.win := by
  induction ws generalizing s with
  | nil =>
    simp only [openWindows, Prod.mk.injEq, true_and] at h
    simp [← h]
  | cons w ws ih =>
    obtain ⟨n, phys⟩ := w
    unfold openWindows at h
    split at h
    · rename_i hg
      split at h
      · rename_i u hu
        simp only [Prod.mk.injEq, true_and] at h
        subst h
        rw [ih hu]
        simp [winOpen, hg]
      · simp at h
    · simp at h

/-- INIT (44_session.md R214). -/
theorem Accepted.execInit {s : State} (h : Accepted s) (g a ch base : Word) :
    ∃ t, Machine.execInit g a ch base s = .next t ∧ Inv t := by
  refine ⟨_, rfl, ?_⟩
  split
  · exact h.respond _
  · rename_i hu
    replace hu : s.sess.state = .uninitialized := by simpa using hu
    split
    · exact h.respond _
    · rename_i hop
      split
      · exact h.respond _
      · rename_i hfit
        obtain ⟨f1, f2, f3, f4, f5, f6, f7⟩ := openWindows_frame (initWindows s.cfg base) s
        split
        · rename_i t ht
          rw [ht] at f1 f2 f3 f4 f5 f6 f7
          exact Accepted.respond (by exact h.of_eq f1 f2 rfl f3 f6 f4 f7) _
        · rename_i t ht
          rw [ht] at f1 f2 f3 f4 f5 f6 f7
          have hwin := openWindows_granted ht
          simp only at f1 f2 f3 f4 f5 f6 f7
          have hop' : (ch.toNat < s.cfg.periph.pwmChannels ∧ a.toNat < 2 ^ s.cfg.periph.gpioFselBits) ∧
              indexFits s.cfg.windowLen (s.cfg.gpioIndex g) = true := by
            simpa [initOperandsOk, and_assoc] using hop
          have hvalid : s.sess.patternValid = false := by
            by_contra hv
            have := h.settled.live (by simpa using hv)
            simp [Session.live, hu] at this
          have hinf : s.inflight = false := by
            by_contra hv
            have := h.steady.inflight (by simpa using hv)
            simp [hu] at this
          have hstage : s.sess.memStage = .none := by
            rcases h.settled.stage with hm | hm
            · exact hm
            · have := h.settled.valid.mpr hm
              simp [hvalid] at this
          rw [respondOk_eq]
          refine Steady.respond ?_ (by simpa [f4] using h.notWaiting) ?_ _
          · refine ⟨?_, ?_, ?_, ?_, fun _ => ⟨?_, ?_, ?_, ?_, ?_, ?_⟩, ?_, ?_⟩
            · simpa [f1] using h.steady.config
            · simpa [f7] using h.steady.noReset
            · simpa [f3] using h.steady.canonical
            · simp [f6, hinf, Action.inflightAfter]
            · simp [hwin, initWindows, Windows.set, Window.ready, f1]
            · simp [hwin, initWindows, Windows.set, Window.ready, f1]
            · simp [hwin, initWindows, Windows.set, Window.ready, f1]
            · simp [hwin, initWindows, Windows.set, Window.ready, f1]
            · simpa [f1] using hfit
            · simpa [f1] using hop'.1.1
            · simp [Session.live]
            · simp
          · constructor <;> simp [f2, hstage]

end Sys2Proof.Machine
end

