-- ==== Sys2Proof/Laws/PerInstr.lean ====
section
/-! SUPPORT. Families of facts proved instruction by instruction. FrameLength: an instruction's words
say how many they are (30_encoding.md R103 for frames, R110 for messages). -/

namespace Sys2Proof.Laws.FrameLength

/-- A frame has the number of words its first two words give; a message's first word is its size in
bytes. -/
def Statement (i : Instr) : Prop :=
  ∀ code : Word, i.wf = true →
    match i.carrier with
    | .command =>
      (encode code i).length = frameLength ((encode code i).getD 0 0) ((encode code i).getD 1 0)
    | .mailbox => ((encode code i).getD 0 0).toNat = 4 * (encode code i).length

theorem stat : Statement .stat := fun _ _ => rfl
theorem init (g a c b : Word) : Statement (.init g a c b) := fun _ _ => rfl
theorem cfgpat (n f r z o : Word) : Statement (.cfgpat n f r z o) := fun _ _ => rfl
theorem send (payload : List Byte) : Statement (.send payload) := by
  intro code h
  simp only [Instr.wf, decide_eq_true_eq] at h
  simp [Instr.carrier, encode, frameLength, opcodeInfo, packPayload_length, trunc32_toNat h]
  omega
theorem wait : Statement .wait := fun _ _ => rfl
theorem shutdown : Statement .shutdown := fun _ _ => rfl
theorem dreset : Statement .dreset := fun _ _ => rfl
theorem solve (b d : Word) : Statement (.solve b d) := fun _ _ => rfl
theorem solveu (b d : Word) : Statement (.solveu b d) := fun _ _ => rfl
theorem repr (p w : Word) : Statement (.repr p w) := fun _ _ => rfl
theorem chwidth (z o : Word) : Statement (.chwidth z o) := fun _ _ => rfl
theorem encode (z o w : Word) (payload : List Byte) : Statement (.encode z o w payload) := by
  intro code h
  simp only [Instr.wf, decide_eq_true_eq] at h
  simp [Instr.carrier, Sys2Proof.encode, frameLength, opcodeInfo, packPayload_length,
    trunc32_toNat h]
  omega
theorem bufsize (n f r w : Word) : Statement (.bufsize n f r w) := fun _ _ => rfl
theorem blddesc (s d l : Word) : Statement (.blddesc s d l) := fun _ _ => rfl
theorem v2bus (p : Word) : Statement (.v2bus p) := fun _ _ => rfl
theorem mbAlloc (s a f : Word) : Statement (.mbAlloc s a f) := fun _ _ => rfl
theorem mbLock (h : Word) : Statement (.mbLock h) := fun _ _ => rfl
theorem mbUnlock (h : Word) : Statement (.mbUnlock h) := fun _ _ => rfl
theorem mbFree (h : Word) : Statement (.mbFree h) := fun _ _ => rfl

end Sys2Proof.Laws.FrameLength
end

