-- ==== Sys2Proof/Laws/Shutdown.lean ====
section
/-! SUPPORT. What a release does when the firmware has met its exchanges, answered or failed
(42_mailbox_allocator.md R180, R181), and the two ends of it: a failed CFGPAT (44_session.md R218)
and SHUTDOWN (R222). -/

namespace Sys2Proof.Machine

/-! ## One exchange that was met -/

/-- The state after an exchange that was answered or failed. -/
def State.metWith (s : State) (m : List Word) (x : MboxAnswer) : State :=
  { s with
    mbox := { buf := bufferAfter m x, waiting := false }
    env := s.env.popMbox
    trace := s.trace ++ mboxEvents m x }

/-- An exchange that was met gives its answer as it stands. -/
theorem mboxAnswer_met {m : List Word} {s : State} {x : MboxAnswer} {as : List MboxAnswer}
    (h : s.env.mbox = x :: as) (hx : exchangeMet m.length x = true) : mboxAnswer m s = x := by
  cases x with
  | pending => cases hx
  | failed => exact mboxAnswer_failed h
  | answered ws => exact mboxAnswer_answered h (by simpa [exchangeMet] using hx)

theorem exchangeMet_ne_pending {n : Nat} {x : MboxAnswer} (h : exchangeMet n x = true) :
    x ≠ .pending := by rintro rfl; cases h

theorem mboxCall_met {m : List Word} {s : State} {x : MboxAnswer} {as : List MboxAnswer}
    (h : s.env.mbox = x :: as) (hx : exchangeMet m.length x = true) :
    mboxCall m s = s.metWith m x := by
  unfold mboxCall State.metWith
  rw [mboxAnswer_met h hx, decide_eq_false (exchangeMet_ne_pending hx)]

/-- MB_FREE met: the release ends. -/
theorem mbFree_met {s : State} {h : Word} {r : Releaser} {y : MboxAnswer} {as : List MboxAnswer}
    (hq : s.seq = .freeing r) (hm : s.env.mbox = y :: as) (hy : exchangeMet 7 y = true) :
    mbFree h s =
      finishRelease (r.afterExchange y) (s.metWith (request tagFree [h] s) y) := by
  have hl : exchangeMet (request tagFree [h] s).length y = true := by rwa [request_length]
  unfold mbFree
  rw [hq]
  dsimp only
  rw [mboxAnswer_met hm hl, if_neg (exchangeMet_ne_pending hy), mboxCall_met hm hl]

/-- MB_UNLOCK met: MEM_STAGE 1, and the release goes on with MB_FREE. -/
theorem mbUnlock_met {s : State} {h : Word} {r : Releaser} {x : MboxAnswer} {as : List MboxAnswer}
    (hq : s.seq = .unlocking r) (hm : s.env.mbox = x :: as) (hx : exchangeMet 7 x = true) :
    mbUnlock h s = mbFree s.sess.memHandle
      { s.metWith (request tagUnlock [h] s) x with
        seq := .freeing (r.afterExchange x)
        sess := { s.sess with memStage := .allocated } } := by
  have hl : exchangeMet (request tagUnlock [h] s).length x = true := by rwa [request_length]
  unfold mbUnlock
  rw [hq]
  dsimp only
  rw [mboxAnswer_met hm hl, if_neg (exchangeMet_ne_pending hx), mboxCall_met hm hl]

/-- Both exchanges of a release met: the state they leave. -/
def State.releasedWith (s : State) (x y : MboxAnswer) : State :=
  { (s.metWith (request tagUnlock [s.sess.memHandle] s) x).metWith
      (request tagFree [s.sess.memHandle] s) y with
    sess := { s.sess with memStage := .allocated } }

/-- What a release has noted after both exchanges. -/
def Releaser.afterBoth (r : Releaser) (x y : MboxAnswer) : Releaser :=
  (r.afterExchange x).afterExchange y

/-- Both exchanges met: the release ends. -/
theorem mbUnlock_mbFree_met {s : State} {r : Releaser} {x y : MboxAnswer} {as : List MboxAnswer}
    (hq : s.seq = .unlocking r) (hm : s.env.mbox = x :: y :: as) (hx : exchangeMet 7 x = true)
    (hy : exchangeMet 7 y = true) :
    ∃ q, mbUnlock s.sess.memHandle s =
      finishRelease (r.afterBoth x y) { s.releasedWith x y with seq := q } := by
  rw [mbUnlock_met hq hm hx]
  refine ⟨_, mbFree_met (as := as) rfl ?_ hy⟩
  simp [State.metWith, hm]

@[simp] theorem releasedWith_cfg (s : State) (x y : MboxAnswer) :
    (s.releasedWith x y).cfg = s.cfg := rfl
@[simp] theorem releasedWith_sess (s : State) (x y : MboxAnswer) :
    (s.releasedWith x y).sess = { s.sess with memStage := .allocated } := rfl
@[simp] theorem releasedWith_win (s : State) (x y : MboxAnswer) :
    (s.releasedWith x y).win = s.win := rfl
@[simp] theorem releasedWith_mem (s : State) (x y : MboxAnswer) :
    (s.releasedWith x y).mem = s.mem := rfl
@[simp] theorem releasedWith_inflight (s : State) (x y : MboxAnswer) :
    (s.releasedWith x y).inflight = s.inflight := rfl
@[simp] theorem releasedWith_chan (s : State) (x y : MboxAnswer) :
    (s.releasedWith x y).chan = s.chan := rfl
@[simp] theorem releasedWith_waiting (s : State) (x y : MboxAnswer) :
    (s.releasedWith x y).mbox.waiting = false := rfl
@[simp] theorem releasedWith_trace (s : State) (x y : MboxAnswer) :
    (s.releasedWith x y).trace = s.trace ++ releaseEvents s.cfg s.sess.memHandle x y := by
  simp only [State.releasedWith, State.metWith, releaseEvents, List.append_assoc]
  rfl

/-! ## The end of a failed CFGPAT -/

/-- A roll-back raises the error that caused it, whatever its exchanges met (60_exceptions.md
R252). -/
theorem afterExchange_rollBack (e : CmdError) (x : MboxAnswer) :
    (Releaser.rollBack e).afterExchange x = .rollBack e := by cases x <;> rfl

theorem response_alloc (c : AllocCause) :
    (CmdError.alloc c).response = [trunc32 (c.code * 256 + 2)] := rfl

/-- What the end of a failed CFGPAT leaves (44_session.md R218). -/
theorem failConfigure_leaves (c : AllocCause) (s : State) :
    ∃ b m u, (failConfigure (.alloc c) s).sess =
      { s.sess with blockBytes := b, memHandle := m, memBus := u, memStage := .none } :=
  ⟨_, _, _, rfl⟩

/-! ## The end of SHUTDOWN -/

/-- What a release by SHUTDOWN has noted after an exchange. -/
theorem afterExchange_shutdown (n : Option CmdError) (x : MboxAnswer) :
    (Releaser.shutdown n).afterExchange x =
      .shutdown (if n = none ∧ x = .failed then some (.alloc .mboxFailed) else n) := by
  cases n <;> cases x <;> rfl

/-- Noting a failed exchange says nothing about the transfer. -/
@[simp] theorem inflightAfterShutdown_noted (n : Option CmdError) (x : MboxAnswer) (b : Bool) :
    inflightAfterShutdown
      (if n = none ∧ x = .failed then some (.alloc .mboxFailed) else n) b =
      inflightAfterShutdown n b := by
  split
  · rename_i h
    rw [h.1]
    rfl
  · rfl

/-- The response of a SHUTDOWN that has noted `n`. -/
def notedResponse (n : Option CmdError) : List Word := (n.map CmdError.response).getD [0]

@[simp] theorem finishShutdown_chan (n : Option CmdError) (s : State) :
    (finishShutdown n s).chan =
      { s.chan with busy := false, response := some (notedResponse n) } := by
  unfold finishShutdown notedResponse
  cases n <;> simp [statusWord, trunc32]

/-- The windows are closed in reverse order of opening (44_session.md R222). -/
theorem finishShutdown_trace_open (n : Option CmdError) {s : State} (h : WindowsReady s) :
    (finishShutdown n s).trace = s.trace ++ closingEvents (notedResponse n) := by
  have h1 := h.gpio.1
  have h2 := h.pwm.1
  have h3 := h.cm.1
  have h4 := h.dma.1
  unfold finishShutdown notedResponse closingEvents
  cases n <;>
    simp [winClose, Windows.get, Windows.set, h1, h2, h3, h4, statusWord, trunc32, respond,
      respondOk, raise]

/-- With no window open none is closed. -/
theorem finishShutdown_trace_closed (n : Option CmdError) {s : State} (h : WindowsClosed s) :
    (finishShutdown n s).trace = s.trace ++ [.response (notedResponse n)] := by
  obtain ⟨h1, h2, h3, h4⟩ := h
  unfold finishShutdown notedResponse
  cases n <;>
    simp [winClose, Windows.get, h1, h2, h3, h4, statusWord, trunc32, respond, respondOk, raise]

/-- SHUTDOWN after its wait, the windows open: PWM and clock, then the release. -/
theorem leaveSession_open (n : Option CmdError) {s : State} (h : WindowsReady s) :
    leaveSession n s = .next (startRelease (.shutdown n)
      { s with trace := s.trace ++ disableEvents s.cfg s.sess.channel }) := by
  unfold leaveSession
  rw [if_pos h.pwm.1, emit_of_ready h (a := .pwmDisable s.sess.channel) trivial, andThen_next,
    if_pos (h.perform _).cm.1, emit_of_ready (h.perform _) (a := .clkStop) trivial, andThen_next]
  refine congrArg (fun t => Host.Outcome.next (startRelease (.shutdown n) t)) ?_
  apply State.eq_of_fields <;>
    simp [perform, realise, performAccess, winWrite, record, disableEvents, Action.inflightAfter]

/-- With no window open no register is written. -/
theorem leaveSession_closed (n : Option CmdError) {s : State} (h : WindowsClosed s) :
    leaveSession n s = .next (startRelease (.shutdown n) s) := by
  unfold leaveSession
  rw [if_neg (by simp [h.pwm]), andThen_next, if_neg (by simp [h.cm]), andThen_next]

/-- SHUTDOWN's release of a mapped block, both exchanges met. -/
theorem release_of_mapped {s : State} (n : Option CmdError) {x y : MboxAnswer}
    {as : List MboxAnswer} (hs : s.sess.memStage = .mapped) (hm : s.env.mbox = x :: y :: as)
    (hx : exchangeMet 7 x = true) (hy : exchangeMet 7 y = true) :
    ∃ (u : State) (q : Seq),
      startRelease (.shutdown n) s =
        finishRelease ((Releaser.shutdown n).afterBoth x y) { u with seq := q } ∧
      u.cfg = s.cfg ∧ u.sess = { s.sess with memStage := .allocated } ∧ u.win = s.win ∧ u.mem = s.mem ∧
      u.inflight = s.inflight ∧ u.chan = s.chan ∧ u.mbox.waiting = false ∧
      u.trace = s.trace ++ .unmapPhys s.sess.memVirt s.sess.blockBytes ::
        releaseEvents s.cfg s.sess.memHandle x y := by
  rw [startRelease_mapped hs]
  obtain ⟨q, e⟩ := mbUnlock_mbFree_met
    (s := { record [.unmapPhys s.sess.memVirt s.sess.blockBytes] s with
      seq := .unlocking (.shutdown n)
      sess := { s.sess with memStage := .locked } }) (as := as) rfl hm hx hy
  refine ⟨_, q, e, rfl, rfl, rfl, rfl, rfl, rfl, rfl, ?_⟩
  simp [record]

end Sys2Proof.Machine
end

