-- ==== Sys2Proof/Tests/Slice0.lean ====
section
/-! SUPPORT. The model's own tests: the ill-formed terms, a word of every constructor written from
the spec's encoding, one or two steps per instruction with results taken from
spec/95_test_vectors.md, and for every statement with hypotheses a state and operands that meet
them together. -/

open Sys2Proof Sys2Proof.Machine

namespace Sys2Proof.Tests

/-! ## Helpers -/

/-- What the channel answers, if the machine goes on. -/
def answer : Res → Option (List Word)
  | .next s => s.chan.response
  | .fault _ => none
  | .refused _ => none

/-- A field of the next state, if the machine goes on. -/
def after {α : Type} (f : State → α) : Res → Option α
  | .next s => some (f s)
  | .fault _ => none
  | .refused _ => none

/-- Does the machine go on? -/
def goesOn : Res → Bool
  | .next _ => true
  | .fault _ => false
  | .refused _ => false

theorem goesOn_iff {r : Res} (h : goesOn r = true) : ∃ t, r = .next t := by
  cases r with
  | next t => exact ⟨t, rfl⟩
  | fault f => cases h
  | refused x => cases h

/-- The reset state with one frame offered. -/
def offered (f : List Word) : State :=
  { State.reset with chan := { State.reset.chan with frames := [f] } }

/-- What the machine answers to a frame right after reset. -/
def ask (f : List Word) : Option (List Word) := answer (step (offered f))

/-- An open window of REFCFG. -/
def window (phys : Word) : Window := { phys := phys, len := 4096, isOpen := true }

/-- The reset state with the answers of P1 and P2: every window granted, the pin's register reads
0x00048000, then the DMA status reads active and ended. -/
def fresh : State :=
  { State.reset with
    env := { State.reset.env with
      grants := [true, true, true, true], reads := [0x00048000, 1, 2] } }

/-- After P1's INIT. -/
def configured : State :=
  { State.reset with
    sess := { Session.reset with
      state := .configured, gpioId := 18, altFn := 2, channel := 0, periphBase := 0x3F000000 }
    win := {
      gpio := window 0x3F200000, pwm := window 0x3F20C000, cm := window 0x3F101000,
      dma := window 0x3F007000 } }

/-- MB_ALLOC's answer with handle `h`. -/
def allocAnswer (h : Word) : List Word := [36, 0x80000000, 0x3000c, 12, 0x80000004, h, 4096, 12, 0]

/-- A seven-word answer with word 5 `v`. -/
def shortAnswer (tag v : Word) : List Word := [28, 0x80000000, tag, 4, 0x80000004, v, 0]

/-- P1's firmware and platform: handle 5, bus address 0xDE000000, mapped at 0x76F00000. -/
def answering : State :=
  { configured with
    env := { configured.env with
      mbox := [.answered (allocAnswer 5), .answered (shortAnswer 0x3000d 0xDE000000)]
      maps := [some 0x76F00000] } }

/-- After P1's CFGPAT, no byte of the block listed. -/
def patterned : State :=
  { configured with
    sess := { configured.sess with
      byteCount := 3, freqHz := 800000, resetDelayUs := 55, zeroCode := 4, oneCode := 6,
      widthBits := 3, divisor := 208, scale := 1, patternBytes := 28, blockBytes := 4096,
      memHandle := 5, memBus := 0xDE000000, memVirt := 0x76F00000, memStage := .mapped,
      patternValid := true } }

/-- Two answers that let a release go through. -/
def released : List MboxAnswer :=
  [.answered (shortAnswer 0x3000e 0), .answered (shortAnswer 0x3000f 0)]

/-- After P1's SEND; the DMA status reads `vs`, the firmware answers `as`. -/
def sending (vs : List Word) (as : List MboxAnswer) : State :=
  { patterned with
    sess := { patterned.sess with state := .sending }
    inflight := true
    env := { patterned.env with reads := vs, mbox := as } }

/-- What P1's CFGPAT has computed. -/
def job : CfgJob where
  byteCount := 3
  freqHz := 800000
  resetDelayUs := 55
  zeroCode := 4
  oneCode := 6
  widthBits := 3
  patternBytes := 28
  blockBytes := 4096

/-- P1's CFGPAT waiting for MB_LOCK's answer. -/
def locking (as : List MboxAnswer) (ms : List (Option Word)) : State :=
  { configured with
    sess := { configured.sess with blockBytes := 4096, memHandle := 5, memStage := .allocated }
    mbox := { buf := [28, 0, 0x3000d, 4, 4, 5, 0], waiting := true }
    seq := .locking job
    chan := { configured.chan with busy := true }
    env := { configured.env with mbox := as, maps := ms } }

/-- P1's CFGPAT waiting for MB_ALLOC's answer. -/
def allocating (as : List MboxAnswer) : State :=
  { configured with
    sess := { configured.sess with blockBytes := 4096 }
    mbox := { buf := [36, 0, 0x3000c, 12, 12, 4096, 4096, 0xC, 0], waiting := true }
    seq := .allocating job
    chan := { configured.chan with busy := true }
    env := { configured.env with mbox := as } }

/-- P1's SHUTDOWN waiting for MB_UNLOCK's answer. -/
def unlocking (as : List MboxAnswer) : State :=
  { patterned with
    sess := { patterned.sess with memStage := .locked }
    mbox := { buf := [28, 0, 0x3000e, 4, 4, 5, 0], waiting := true }
    seq := .unlocking (.shutdown none)
    chan := { patterned.chan with busy := true }
    env := { patterned.env with mbox := as } }

/-- P3's SHUTDOWN, its DMA error noted, waiting for MB_UNLOCK's answer. -/
def unlockingAfterError (as : List MboxAnswer) : State :=
  { sending [] as with
    sess := { patterned.sess with state := .sending, memStage := .locked }
    mbox := { buf := [28, 0, 0x3000e, 4, 4, 5, 0], waiting := true }
    seq := .unlocking (.shutdown (some (.dmaError 2)))
    chan := { patterned.chan with busy := true } }

/-- P1's SHUTDOWN waiting for MB_FREE's answer, `n` noted. -/
def freeing (as : List MboxAnswer) (n : Option CmdError := none) : State :=
  { patterned with
    sess := { patterned.sess with memStage := .allocated }
    mbox := { buf := [28, 0, 0x3000f, 4, 4, 5, 0], waiting := true }
    seq := .freeing (.shutdown n)
    chan := { patterned.chan with busy := true }
    env := { patterned.env with mbox := as } }

/-- P4's CFGPAT whose mapping was refused, waiting at `q` with MEM_STAGE `m` for the answer to the
message of `tag`. -/
def rollingBack (q : Seq) (m : MemStage) (tag : Word) (as : List MboxAnswer) : State :=
  { configured with
    sess := { configured.sess with
      blockBytes := 4096, memHandle := 5, memBus := 0xDE000000, memStage := m }
    mbox := { buf := [28, 0, tag, 4, 4, 5, 0], waiting := true }
    seq := q
    chan := { configured.chan with busy := true }
    env := { configured.env with mbox := as } }

/-- P4's release of a CFGPAT. -/
def rollBack : Releaser := .rollBack (.alloc .mapFailed)

/-- A command polling. -/
def polling (k : Poller) (vs : List Word) (as : List MboxAnswer := []) : State :=
  { sending vs as with seq := .polling k, chan := { patterned.chan with busy := true } }

/-- After P1's SHUTDOWN. -/
def shutDown : State :=
  { State.reset with
    sess := { patterned.sess with state := .shutDown, patternValid := false, memStage := .none } }

/-! ## Ill-formed terms (30_encoding.md R102: the length is one word) -/

theorem test_wf_refuses_send : (Instr.send (List.replicate 4294967296 0)).wf = false := by
  simp only [Instr.wf, List.length_replicate]
  decide

theorem test_wf_refuses_encode :
    (Instr.encode 4 6 3 (List.replicate 4294967296 0)).wf = false := by
  simp only [Instr.wf, List.length_replicate]
  decide

theorem test_wf_accepts : (Instr.send [0xFF, 0x00, 0xAA]).wf = true := by decide

/-! ## Decoding: one word or frame per constructor (30_encoding.md R102, R111;
95_test_vectors.md) -/

theorem test_decode_stat : decodeFrame [0x00000000] = .ok .stat := by decide
theorem test_decode_init :
    decodeFrame [0x00000001, 0x0000000C, 0x00000004, 0x00000000, 0x3F000000] =
      .ok (.init 12 4 0 0x3F000000) := by decide
theorem test_decode_cfgpat :
    decodeFrame [0x00000002, 0x00000002, 0x00061A80, 0x00000032, 0x00000019, 0x0000004B] =
      .ok (.cfgpat 2 400000 50 25 75) := by decide
theorem test_decode_send :
    decodeFrame [0x00000003, 0x00000002, 0x0000F00F] = .ok (.send [0x0F, 0xF0]) := by decide
theorem test_decode_send_long :
    decodeFrame [0x00000003, 0x00000005, 0x04030201, 0xFFFFFF05] =
      .ok (.send [1, 2, 3, 4, 5]) := by decide
theorem test_decode_wait : decodeFrame [0x00000004] = .ok .wait := by decide
theorem test_decode_shutdown : decodeFrame [0x00000005] = .ok .shutdown := by decide
theorem test_decode_dreset : decodeFrame [0x00000006] = .ok .dreset := by decide
theorem test_decode_solve :
    decodeFrame [0x00000010, 0x1DCD6500, 0x00000064] = .ok (.solve 500000000 100) := by decide
theorem test_decode_solveu :
    decodeFrame [0x00000011, 0x1DCD6500, 0x00249F00] = .ok (.solveu 500000000 2400000) := by decide
theorem test_decode_repr :
    decodeFrame [0x00000020, 0x00000042, 0x00000003] = .ok (.repr 66 3) := by decide
theorem test_decode_chwidth :
    decodeFrame [0x00000021, 0x00000021, 0x00000042] = .ok (.chwidth 33 66) := by decide
theorem test_decode_encode :
    decodeFrame [0x00000022, 0x00000003, 0x00000004, 0x00000006, 0x00000003, 0x00AA00FF] =
      .ok (.encode 4 6 3 [0xFF, 0x00, 0xAA]) := by decide
theorem test_decode_bufsize :
    decodeFrame [0x00000023, 0x00000003, 0x000C3500, 0x00000037, 0x00000003] =
      .ok (.bufsize 3 800000 55 3) := by decide
theorem test_decode_blddesc :
    decodeFrame [0x00000030, 0xDE000020, 0x3F20C018, 0x0000001C] =
      .ok (.blddesc 0xDE000020 0x3F20C018 28) := by decide
theorem test_decode_v2bus :
    decodeFrame [0x00000031, 0x76F00020] = .ok (.v2bus 0x76F00020) := by decide
theorem test_decode_mbAlloc :
    decodeMessage 0 [36, 0, 0x3000c, 12, 12, 8192, 4096, 0xC, 0] = .ok (.mbAlloc 8192 4096 0xC) := by
  decide
theorem test_decode_mbLock :
    decodeMessage 0 [28, 0, 0x3000d, 4, 4, 0x2A, 0] = .ok (.mbLock 0x2A) := by decide
theorem test_decode_mbUnlock :
    decodeMessage 0 [28, 0, 0x3000e, 4, 4, 0x2A, 0] = .ok (.mbUnlock 0x2A) := by decide
theorem test_decode_mbFree :
    decodeMessage 0 [28, 0, 0x3000f, 4, 4, 0x2A, 0] = .ok (.mbFree 0x2A) := by decide

/-- Words as spec/opcode_table.json numbers them; operand words the row gives no bits are 0. -/
theorem test_table_words :
    decodeTableWord 96 0x00000064_1DCD6500_00000010 = some (.solve 500000000 100) ∧
    decodeTableWord 32 0x00000023 = some (.bufsize 0 0 0 0) ∧
    decodeTableWord 32 0x0003000d = some (.mbLock 0) ∧
    decodeTableWord 32 0x00000007 = none := by decide

/-- V7 of 95_test_vectors.md, refusals in R106's order. -/
theorem test_refused_frames :
    ask [0x00000007] = some [0x00000105] ∧ ask [0x00000100] = some [0x00000205] ∧
    ask [0x00000107] = some [0x00000205] ∧ ask [0x00000010, 5] = some [0x00000605] ∧
    ask [0x00000003, 5, 0x04030201] = some [0x00000605] ∧
    ask [0x00000003, 0] = some [0x00000305] := by decide

/-! ## One step each (95_test_vectors.md V1 to V6, P1 to P5) -/

/-- V7: STAT after reset; P1: STAT after INIT, after CFGPAT, after SEND, after SHUTDOWN. -/
theorem test_stat :
    ask [0x00000000] = some [0, 0] ∧ answer (exec .stat configured) = some [0, 0xF01] ∧
    answer (exec .stat patterned) = some [0, 0xF35] ∧
    answer (exec .stat (sending [] [])) = some [0, 0xF36] ∧
    answer (exec .stat shutDown) = some [0, 0x003] := by decide

/-- P1: the pin's field of register 1 becomes 2, the windows lie at their addresses. -/
theorem test_init :
    after (fun t => (t.sess, t.win)) (exec (.init 18 2 0 0x3F000000) fresh) =
      some (configured.sess, configured.win) ∧
    after (fun t => t.trace.getD 6 .sleep) (exec (.init 18 2 0 0x3F000000) fresh) =
      some (.winWrite .gpio 1 0x02048000) := by decide

/-- R241: the refused window names the cause, R214: what was opened is closed again. -/
theorem test_init_refused :
    answer (exec (.init 18 2 0 0x3F000000)
      { fresh with env := { fresh.env with grants := [true, true, false] } }) = some [0x301] := by
  decide

/-- P1's response and registers. -/
theorem test_cfgpat :
    answer (exec (.cfgpat 3 800000 55 33 66) answering) =
      some [0, 4, 6, 3, 0xD0, 0x1C, 0x1000, 0xDE000000] ∧
    after State.sess (exec (.cfgpat 3 800000 55 33 66) answering) = some patterned.sess := by decide

/-- P1's memory image: the descriptor, then zeros. -/
theorem test_cfgpat_memory :
    after (fun t => (List.range 16).map fun q => memRead (0x76F00000 + 4 * q) t)
        (exec (.cfgpat 3 800000 55 33 66) answering) =
      some [some 0x04050148, some 0xDE000020, some 0x3F20C018, some 0x1C, some 0, some 0, some 0,
        some 0, some 0, some 0, some 0, some 0, some 0, some 0, some 0, none] := by decide

/-- P1: the encoded words and zeros to the end of the region. -/
theorem test_send :
    after (fun t => (List.range 7).map fun q => memRead (0x76F00020 + 4 * q) t)
        (exec (.send [0xFF, 0x00, 0xAA]) patterned) =
      some [some 0xDB6DB692, some 0x4924D34D, some 0x34000000, some 0, some 0, some 0, some 0] := by
  decide

/-- P1: the last register write of DmaStart; STATE Sending. -/
theorem test_send_starts :
    after (fun t => (t.sess.state, t.trace.getD 16 .sleep)) (exec (.send [0xFF, 0x00, 0xAA]) patterned) =
      some (.sending, .winWrite .dma 320 0x10FF0001) := by decide

/-- P1: the DMA status reads active, then ended. -/
theorem test_wait :
    after (fun t => (t.seq, t.chan.response)) (exec .wait (sending [1, 2] [])) =
      some (.polling .wait, none) ∧
    after (fun t => (t.sess.state, t.chan.response)) (step (polling .wait [2])) =
      some (.configured, some [0]) := by decide

/-- P3: error and active both set, the error wins; STATE stays Sending, FAULT is set. -/
theorem test_wait_error :
    after (fun t => (t.sess.state, t.sess.fault, t.chan.response))
        (exec .wait (sending [0x101, 2] [])) =
      some (.sending, true, some [0x104, 2]) := by decide

/-- P1: the two exchanges of SHUTDOWN, and the windows closed; P5: SHUTDOWN after reset. -/
theorem test_shutdown :
    after (fun t => (t.sess.state, t.chan.response, t.trace.drop 4))
        (exec .shutdown { patterned with env := { patterned.env with mbox := released } }) =
      some (.shutDown, some [0],
        [.unmapPhys 0x76F00000 4096,
          .mbox mboxIoctl [28, 0, 0x3000e, 4, 4, 5, 0] (some (shortAnswer 0x3000e 0)),
          .mbox mboxIoctl [28, 0, 0x3000f, 4, 4, 5, 0] (some (shortAnswer 0x3000f 0)),
          .winClose .dma, .winClose .cm, .winClose .pwm, .winClose .gpio, .response [0]]) ∧
    ask [0x00000005] = some [0] := by decide

/-- P3: the DMA error is noted first, the failed exchange is dropped. INFLIGHT is clear after the
response (70_reset_and_hazards.md R303), and not while MB_UNLOCK is unanswered (20_memory.md R82). -/
theorem test_shutdown_first_error :
    after (fun t => (t.sess.state, t.inflight, t.chan.response))
        (exec .shutdown (sending [0x100, 2] [.answered (shortAnswer 0x3000e 0), .failed])) =
      some (.shutDown, false, some [0x104, 2]) ∧
    after (fun t => (t.seq, t.inflight)) (exec .shutdown (sending [0x100, 2] [.pending])) =
      some (.unlocking (.shutdown (some (.dmaError 2))), true) := by decide

/-- 43_dma_engine.md R198: one register write, Sending becomes Configured. -/
theorem test_dreset :
    after (fun t => (t.sess.state, t.inflight, t.trace)) (exec .dreset (sending [] [])) =
      some (.configured, false,
        [.action .dmaReset, .winWrite .dma 320 0x80000000, .response [0]]) ∧
    answer (exec .dreset State.reset) = some [0x305] := by decide

/-- V1. -/
theorem test_solve :
    answer (exec (.solve 500000000 100) State.reset) = some [0, 0x1F4, 0x2710, 0] ∧
    answer (exec (.solve 500000000 244140) State.reset) = some [0, 2048, 1, 0] ∧
    answer (exec (.solve 0 5) State.reset) = some [0, 1, 1, 0] ∧
    answer (exec (.solve 1 0) State.reset) = some [0x405] := by decide

/-- V1, MAX_DIVISOR 1: the scale in two words. -/
theorem test_solve_scale :
    answer (exec (.solve 4294967295 1)
        { State.reset with cfg := { Config.refcfg with maxDivisor := 1 } }) =
      some [0, 1, 0x540BE400, 2] := by decide

theorem test_solveu :
    answer (exec (.solveu 500000000 2400000) State.reset) = some [0, 0xD0] ∧
    answer (exec (.solveu 500000000 100) State.reset) = some [0, 2048] ∧
    answer (exec (.solveu 19200000 19200001) State.reset) = some [0, 1] := by decide

/-- V2. -/
theorem test_repr :
    answer (exec (.repr 50 5) State.reset) = some [0, 0x1C] ∧
    answer (exec (.repr 0 3) State.reset) = some [0, 4] ∧
    answer (exec (.repr 97 16) State.reset) = some [0, 0xFFFF] ∧
    answer (exec (.repr 101 3) State.reset) = some [0x405] ∧
    answer (exec (.repr 33 17) State.reset) = some [0x405] := by decide

/-- V3. -/
theorem test_chwidth :
    answer (exec (.chwidth 33 66) State.reset) = some [0, 4, 6, 3] ∧
    answer (exec (.chwidth 40 42) State.reset) = some [0, 0x30, 0x38, 6] ∧
    answer (exec (.chwidth 46 48) State.reset) = some [0, 0x3F00, 0x3F80, 14] ∧
    answer (exec (.chwidth 50 51) State.reset) = some [0x103] ∧
    answer (exec (.chwidth 101 5) State.reset) = some [0x405] := by decide

/-- V4. -/
theorem test_encode :
    answer (exec (.encode 4 6 3 [0xA5]) State.reset) = some [0, 0xD349A600] ∧
    answer (exec (.encode 0x10 0x1C 5 [0xC3, 0x3C]) State.reset) =
      some [0, 0xE7210843, 0x9C8439CE, 0x72100000] ∧
    answer (exec (.encode 4 6 3 []) State.reset) = some [0] ∧
    answer (exec (.encode 4 8 3 [1]) State.reset) = some [0x405] := by decide

/-- V5. -/
theorem test_bufsize :
    answer (exec (.bufsize 3 800000 55 3) State.reset) = some [0, 28, 4096] ∧
    answer (exec (.bufsize 1364 800000 55 3) State.reset) = some [0, 4112, 8192] ∧
    answer (exec (.bufsize 1 2800000 1 3) State.reset) = some [0, 4, 4096] ∧
    answer (exec (.bufsize 4294967295 1 0 16) State.reset) = some [0x405] := by decide

/-- V6. -/
theorem test_blddesc :
    answer (exec (.blddesc 0xDE000020 0x3F20C018 28) State.reset) =
      some [0, 0x04050148, 0xDE000020, 0x3F20C018, 0x1C, 0, 0, 0, 0] := by decide

/-- V6. -/
theorem test_v2bus :
    answer (exec (.v2bus 0x76F00000) patterned) = some [0, 0xDE000000] ∧
    answer (exec (.v2bus 0x76F00FFF) patterned) = some [0, 0xDE000FFF] ∧
    answer (exec (.v2bus 0x76F01000) patterned) = some [0x505] ∧
    answer (exec (.v2bus 0x76EFFFFF) patterned) = some [0x505] ∧
    answer (exec (.v2bus 0x76F00000) configured) = some [0x305] := by decide

/-- P4: a handle of 0 is AllocZero, after one exchange. -/
theorem test_mbAlloc :
    after (fun t => (t.chan.response, t.sess.memStage, t.trace.length))
        (step (allocating [.answered (allocAnswer 0)])) = some (some [0x102], .none, 2) := by decide

/-- P4: an address of all ones is LockFailed, and the handle is freed; P1: the pattern is ready. -/
theorem test_mbLock :
    after (fun t => (t.chan.response, t.trace))
        (step (locking [.answered (shortAnswer 0x3000d 0xFFFFFFFF), .failed] [])) =
      some (some [0x202],
        [.mbox mboxIoctl [28, 0, 0x3000d, 4, 4, 5, 0] (some (shortAnswer 0x3000d 0xFFFFFFFF)),
          .mbox mboxIoctl [28, 0, 0x3000f, 4, 4, 5, 0] none, .response [0x202]]) ∧
    after State.sess
        (step (locking [.answered (shortAnswer 0x3000d 0xDE000000)] [some 0x76F00000])) =
      some patterned.sess := by decide

/-- R181: a failed MB_UNLOCK is noted, MB_FREE follows all the same. -/
theorem test_mbUnlock :
    after (fun t => (t.sess.state, t.chan.response, t.trace.take 2))
        (step (unlocking [.failed, .answered (shortAnswer 0x3000f 0)])) =
      some (.shutDown, some [0x402],
        [.mbox mboxIoctl [28, 0, 0x3000e, 4, 4, 5, 0] none,
          .mbox mboxIoctl [28, 0, 0x3000f, 4, 4, 5, 0] (some (shortAnswer 0x3000f 0))]) := by decide

/-- R180, R252: a failed MB_UNLOCK of a roll-back is ignored; P4's MapFailed is raised. -/
theorem test_mbUnlock_rollBack :
    after (fun t => (t.sess.state, t.sess.memStage, t.chan.response))
        (step (rollingBack (.unlocking rollBack) .locked 0x3000e [.failed, .failed])) =
      some (.configured, .none, some [0x302]) := by decide

theorem test_mbFree :
    after (fun t => (t.sess.state, t.chan.response, t.mbox.waiting))
        (step (freeing [.answered (shortAnswer 0x3000f 0)])) =
      some (.shutDown, some [0], false) := by decide

/-- R31: the intermediate values of MEM_STAGE exist inside SHUTDOWN and inside a roll-back: 2 while
MB_UNLOCK is outstanding, 1 while MB_FREE is. -/
theorem test_stage_inside_release :
    after (fun t => t.sess.memStage)
        (exec .shutdown { patterned with env := { patterned.env with mbox := [.pending] } }) =
      some .locked ∧
    after (fun t => t.sess.memStage) (step (unlocking [.failed, .pending])) = some .allocated ∧
    after (fun t => t.sess.memStage)
        (step (rollingBack (.unlocking rollBack) .locked 0x3000e [.failed, .pending])) =
      some .allocated := by decide

/-- Placing a word puts it where the next step takes it. -/
theorem test_withFetchWord :
    answer (step (State.reset.withFetchWord 96 0x00000064_1DCD6500_00000010)) =
      some [0, 0x1F4, 0x2710, 0] ∧
    goesOn (step (State.reset.withFetchWord 32 0x0003000f)) = true := by decide

/-- 70_reset_and_hazards.md R303: with a frame unsent the run is not over. -/
theorem test_unsent_frame_is_not_over : ¬ Over (offered [5]) := fun h => nomatch h.lastFrame

/-- 10_state.md R44: REFCFG's password field begins at bit 24 (93_implementation_defined.md G2), so
MAX_DIVISOR may be 4095 and no more. -/
theorem test_clock_word_fits_below_password :
    { Config.refcfg with maxDivisor := 4095 }.valid = true ∧
    { Config.refcfg with maxDivisor := 4096 }.valid = false := by decide

/-! ## Memory -/

theorem test_reset_memory_canonical : State.reset.mem.wf := by decide

/-- 95_test_vectors.md S9: the word lies in memory least significant byte first. -/
theorem test_memory_bytes :
    Memory.writeWord [] 8 0xD349A600 = [(8, 0x00), (9, 0xA6), (10, 0x49), (11, 0xD3)] ∧
    Memory.write [(8, 1), (10, 2)] 9 3 = [(8, 1), (9, 3), (10, 2)] := by decide

/-! ## States that meet the invariant -/

theorem refcfg_valid : Config.refcfg.valid = true := by decide

theorem window_ready (p : Word) : (window p).ready Config.refcfg := ⟨rfl, rfl⟩

theorem layout_ok : LayoutOk Config.refcfg 4 6 3 3 28 4096 :=
  ⟨by decide, by decide, by decide, by decide, by decide, ⟨33, 66, by decide, by decide, by decide⟩,
    by decide, by decide, by decide, by decide⟩

theorem patterned_ok (p : Phase) : PatternOk Config.refcfg { patterned.sess with state := p } :=
  ⟨layout_ok, (by decide : 1 ≤ (208 : Word).toNat), (by decide : (208 : Word).toNat ≤ 2048), rfl⟩

theorem patterned_settled (p : Phase) (h : p = .configured ∨ p = .sending) :
    Settled { patterned.sess with state := p } := by
  rcases h with rfl | rfl
  · exact ⟨.inr rfl, by decide, by decide, by decide⟩
  · exact ⟨.inr rfl, by decide, by decide, by decide⟩

theorem unpatterned_settled {r : Session} (hm : r.memStage = .none) (hv : r.patternValid = false)
    (hs : r.state ≠ .sending) : Settled r := by
  constructor <;> simp [hm, hv, hs]

theorem ready_of {s : State} (hc : s.cfg = Config.refcfg) (hw : s.win = configured.win)
    (hn : s.sess.channel = 0) : WindowsReady s := by
  constructor
  · rw [hc, hw]; exact window_ready _
  · rw [hc, hw]; exact window_ready _
  · rw [hc, hw]; exact window_ready _
  · rw [hc, hw]; exact window_ready _
  · rw [hc]; decide
  · rw [hc, hn]; decide

theorem job_ok (r : Session) (h : r.blockBytes = 4096) : JobOk Config.refcfg r job :=
  ⟨layout_ok, h⟩

theorem inv_configured (e : Env) : Inv { configured with env := e } :=
  ⟨⟨refcfg_valid, rfl, List.Pairwise.nil, nofun, fun _ => ready_of rfl rfl rfl, nofun, nofun⟩,
    ⟨rfl, unpatterned_settled rfl rfl nofun⟩, rfl⟩

theorem inv_patterned (e : Env) : Inv { patterned with env := e } :=
  ⟨⟨refcfg_valid, rfl, List.Pairwise.nil, nofun, fun _ => ready_of rfl rfl rfl, nofun,
    fun _ => patterned_ok _⟩, ⟨rfl, patterned_settled _ (.inl rfl)⟩, rfl⟩

theorem inv_sending (vs : List Word) (as : List MboxAnswer) : Inv (sending vs as) :=
  ⟨⟨refcfg_valid, rfl, List.Pairwise.nil, fun _ => rfl, fun _ => ready_of rfl rfl rfl, nofun,
    fun _ => patterned_ok _⟩, ⟨rfl, patterned_settled _ (.inr rfl)⟩, rfl⟩

theorem inv_polling (k : Poller) (vs : List Word) (as : List MboxAnswer := []) :
    Inv (polling k vs as) :=
  ⟨⟨refcfg_valid, rfl, List.Pairwise.nil, fun _ => rfl, fun _ => ready_of rfl rfl rfl, nofun,
    fun _ => patterned_ok _⟩, ⟨rfl, patterned_settled _ (.inr rfl), rfl⟩, rfl⟩

/-- A CFGPAT under way, at any place of its allocation or roll-back. -/
theorem steady_configuring (r : Session) (hs : r.state = .configured)
    (hv : r.patternValid = false) (hn : r.channel = 0) (b : Mailbox) (q : Seq) (c : Channel)
    (hc : c.resetLine = false) (e : Env) :
    Steady { configured with sess := r, mbox := b, seq := q, chan := c, env := e } :=
  ⟨refcfg_valid, hc, List.Pairwise.nil, nofun, fun _ => ready_of rfl rfl hn,
    fun h => absurd h (by simp [Session.live, hs]), fun h => absurd h (by simp [hv])⟩

theorem inv_allocating (as : List MboxAnswer) : Inv (allocating as) :=
  ⟨steady_configuring _ rfl rfl rfl _ _ _ rfl _, ⟨⟨rfl, rfl⟩, ⟨rfl, rfl⟩, rfl, job_ok _ rfl⟩, rfl⟩

theorem inv_locking (as : List MboxAnswer) (ms : List (Option Word)) : Inv (locking as ms) :=
  ⟨steady_configuring _ rfl rfl rfl _ _ _ rfl _, ⟨⟨rfl, rfl⟩, ⟨rfl, rfl⟩, rfl, job_ok _ rfl⟩, rfl⟩

theorem inv_rollingBack (as : List MboxAnswer) :
    Inv (rollingBack (.unlocking rollBack) .locked 0x3000e as) ∧
      Inv (rollingBack (.freeing rollBack) .allocated 0x3000f as) :=
  ⟨⟨steady_configuring _ rfl rfl rfl _ _ _ rfl _, ⟨⟨rfl, rfl⟩, rfl, rfl, rfl, rfl⟩, rfl⟩,
    ⟨steady_configuring _ rfl rfl rfl _ _ _ rfl _, ⟨⟨rfl, rfl⟩, rfl, rfl, rfl, rfl⟩, rfl⟩⟩

/-- A SHUTDOWN under way, at any place of its release. -/
theorem steady_leaving (m : MemStage) (b : Mailbox) (q : Seq) (c : Channel)
    (hc : c.resetLine = false) (e : Env) :
    Steady { patterned with
      sess := { patterned.sess with memStage := m }, mbox := b, seq := q, chan := c, env := e } :=
  Steady.staged (s := { patterned with mbox := b, seq := q, chan := c, env := e })
    ⟨refcfg_valid, hc, List.Pairwise.nil, nofun, fun _ => ready_of rfl rfl rfl, nofun,
      fun _ => patterned_ok _⟩ m

theorem inv_unlocking (as : List MboxAnswer) : Inv (unlocking as) :=
  ⟨steady_leaving _ _ _ _ rfl _, ⟨⟨rfl, rfl⟩, rfl, rfl, ⟨rfl, rfl, rfl, nofun⟩⟩, rfl⟩

theorem inv_unlockingAfterError (as : List MboxAnswer) : Inv (unlockingAfterError as) :=
  ⟨((inv_sending [] as).toSteady.staged .locked).of_eq rfl rfl rfl rfl rfl rfl,
    ⟨⟨rfl, rfl⟩, rfl, rfl, ⟨rfl, rfl, rfl, fun _ _ => rfl⟩⟩, rfl⟩

theorem inv_freeing (as : List MboxAnswer) : Inv (freeing as) :=
  ⟨steady_leaving _ _ _ _ rfl _, ⟨⟨rfl, rfl⟩, rfl, rfl, ⟨rfl, rfl, rfl, nofun⟩⟩, rfl⟩

theorem inv_freeing_noted (as : List MboxAnswer) :
    Inv (freeing as (some (.alloc .mboxFailed))) :=
  ⟨steady_leaving _ _ _ _ rfl _, ⟨⟨rfl, rfl⟩, rfl, rfl, ⟨rfl, rfl, rfl, nofun⟩⟩, rfl⟩

theorem inv_shutDown (f : List (List Word)) :
    Inv { shutDown with chan := { shutDown.chan with frames := f } } :=
  ⟨⟨refcfg_valid, rfl, List.Pairwise.nil, nofun, nofun, fun _ => ⟨rfl, rfl, rfl, rfl⟩, nofun⟩,
    ⟨rfl, unpatterned_settled rfl rfl nofun⟩, rfl⟩

theorem inv_offered (f : List Word) : Inv (offered f) :=
  ⟨⟨refcfg_valid, rfl, List.Pairwise.nil, nofun, nofun, fun _ => ⟨rfl, rfl, rfl, rfl⟩, nofun⟩,
    ⟨rfl, unpatterned_settled rfl rfl nofun⟩, rfl⟩

theorem inv_reset : Inv State.reset :=
  ⟨⟨refcfg_valid, rfl, List.Pairwise.nil, nofun, nofun, fun _ => ⟨rfl, rfl, rfl, rfl⟩, nofun⟩,
    ⟨rfl, unpatterned_settled rfl rfl nofun⟩, rfl⟩

/-- Where a command's meaning may run: BUSY clear between commands, set once its frame is accepted,
set while it polls. -/
theorem at_command {s : State} (h : Inv s) (hq : s.seq = .idle) (f : List Word) :
    (AtCommand s ∧ s.chan.busy = false) ∧
      AtCommand (accept f [] s) ∧ (accept f [] s).chan.busy = true :=
  ⟨⟨h.atCommand hq, by rw [h.busy, hq]; rfl⟩, (h.accepted hq f []).toAtCommand, rfl⟩

theorem at_polling (k : Poller) (vs : List Word) (as : List MboxAnswer) :
    AtCommand (polling k vs as) ∧ (polling k vs as).chan.busy = true :=
  ⟨((inv_polling k vs as).polling rfl).1.toAtCommand, rfl⟩

theorem ready_offered (f : List Word) : Ready (offered f) := ⟨rfl, rfl, rfl, rfl⟩

theorem wait_is_no_shutdown (vs : List Word) : ¬ ShuttingDown (polling .wait vs) := by
  rintro (⟨u, h⟩ | h | ⟨n, h⟩ | ⟨n, h⟩) <;> cases h

/-! ## Witnesses: for each statement with hypotheses, states and operands that meet them together.
The first three words of each name are the statement's. -/

theorem witness_DecodeReadsBackEveryEncoding :
    (Instr.send [1, 2, 3, 4, 5]).wf = true ∧ (Instr.encode 0 0 0 []).wf = true ∧
      (Instr.mbFree 0xFFFFFFFF).wf = true := by decide

/-- Each verdict, at the edge of its range: the first reserved bit; the first unused opcode; SOLVE
with one operand and with two; a payload of 0 and of 5 bytes. -/
theorem witness_IllegalFramesAreRefusedInOrder :
    ((0x100 : Word).toNat / 256 ≠ 0 ∧ (0xFF : Word).toNat / 256 = 0) ∧
    (0x07 : Word).toNat ∉ [0x00, 0x01, 0x02, 0x03, 0x04, 0x05, 0x06, 0x10, 0x11, 0x20, 0x21, 0x22,
      0x23, 0x30, 0x31] ∧
    opcodeInfo (0x10 : Word).toNat = some (2, false) ∧ [(5 : Word)].length ≠ 2 + 0 ∧
    [(5 : Word), 6].length = 2 + 0 ∧ opcodeInfo (0x03 : Word).toNat = some (1, true) ∧
    [(0 : Word)].length = 1 + ceilDiv ([(0 : Word)].headD 0).toNat 4 ∧
    [(5 : Word), 9].length ≠ 1 + ceilDiv ([(5 : Word), 9].headD 0).toNat 4 := by decide

theorem witness_IllegalFrames_step :
    Ready (offered [7]) ∧ (offered [7]).chan.frames = [7] :: [] ∧
      decodeFrame [7] = .error .illegalOpcode := ⟨ready_offered _, rfl, by decide⟩

theorem witness_StepRunsTheDecodedFrame :
    Ready (offered [4]) ∧ (offered [4]).chan.frames = [4] :: [] ∧ decodeFrame [4] = .ok .wait :=
  ⟨ready_offered _, rfl, by decide⟩

theorem witness_StepRunsTheMailboxMessage :
    (locking [] []).chan.resetLine = false ∧ (locking [] []).mbox.waiting = true ∧
      (Instr.mbLock 5).carrier = .mailbox ∧
      (locking [] []).mbox.buf = encode (locking [] []).cfg.mboxReqCode (.mbLock 5) := by decide

theorem witness_IdleBlockHoldsItsState : Ready configured ∧ configured.chan.frames = [] :=
  ⟨⟨rfl, rfl, rfl, rfl⟩, rfl⟩

theorem witness_BusyBlockAcceptsNoFrame :
    ∃ t, (polling .wait [1]).chan.busy = true ∧ step (polling .wait [1]) = .next t :=
  ⟨_, rfl, rfl⟩

theorem witness_OneResponseEndsACommand :
    ∃ t, (offered [0]).chan.resetLine = false ∧ step (offered [0]) = .next t := ⟨_, rfl, rfl⟩

/-- Both clauses; with quotient MAX_DIVISOR exactly the scale is 1. -/
theorem witness_SolveFindsSmallestScale :
    (0 : Word) = 0 ∧ (244140 : Word) ≠ 0 ∧
      (500000000 : Word).toNat / ((244140 : Word).toNat * 10 ^ 0) ≤ State.reset.cfg.maxDivisor := by
  decide

theorem witness_DivisorsStayInRange : 1 ≤ State.reset.cfg.maxDivisor ∧ (1 : Word) ≠ 0 := by decide

/-- The three ranges of the quotient, at their edges: 2049, 2048, 1 and 0. -/
theorem witness_SolveuClampsQuotient :
    1 ≤ State.reset.cfg.maxDivisor ∧
      State.reset.cfg.maxDivisor < (2049 : Word).toNat / (1 : Word).toNat ∧
      (2048 : Word).toNat / (1 : Word).toNat ≤ State.reset.cfg.maxDivisor ∧
      1 ≤ (5 : Word).toNat / (5 : Word).toNat ∧ (4 : Word).toNat / (5 : Word).toNat = 0 := by decide

theorem witness_ReprSetsTopBits :
    ((100 : Word).toNat ≤ 100 ∧ 3 ≤ (3 : Word).toNat ∧ (16 : Word).toNat ≤ 16) ∧
      100 < (101 : Word).toNat ∧ (2 : Word).toNat < 3 ∧ 16 < (17 : Word).toNat := by decide

/-- 101; no width for 50 and 51; the first width 3 for 33 and 66, 6 for 40 and 42 (V3). -/
theorem witness_ChwidthTakesFirstDistinguishingWidth :
    100 < (101 : Word).toNat ∧ (100 : Word).toNat ≤ 100 ∧
      (∀ w, 3 ≤ w → w ≤ 16 →
        representation (50 : Word).toNat w = representation (51 : Word).toNat w) ∧
      representation (33 : Word).toNat 3 ≠ representation (66 : Word).toNat 3 ∧
      representation (40 : Word).toNat 6 ≠ representation (42 : Word).toNat 6 ∧
      (∀ v, 3 ≤ v → v < 6 →
        representation (40 : Word).toNat v = representation (42 : Word).toNat v) := by
  refine ⟨by decide, by decide, ?_, by decide, by decide, ?_⟩
  · intro w h1 h2
    interval_cases w <;> decide
  · intro v h1 h2
    interval_cases v <;> decide

theorem witness_EncodeLaysStreamIntoWords :
    ((2 : Word).toNat < 3 ∧ 16 < (17 : Word).toNat ∧ 2 ^ (3 : Word).toNat ≤ (8 : Word).toNat) ∧
      3 ≤ (3 : Word).toNat ∧ (16 : Word).toNat ≤ 16 ∧ (7 : Word).toNat < 2 ^ (3 : Word).toNat ∧
      (6 : Word) ≠ 7 ∧ 23 < [(0xA5 : Byte)].length * 8 * (3 : Word).toNat ∧
      [(0xA5 : Byte)].length * 8 * (3 : Word).toNat ≤ 24 ∧ 24 < 32 * 1 := by decide

theorem witness_EncodedBytesDecodeBack :
    1 ≤ 3 ∧ 4 < 2 ^ 3 ∧ 6 < 2 ^ 3 ∧ (4 : Nat) ≠ 6 := by decide

theorem witness_PackedBytesAreReversedInGroups :
    3 < 4 * (encodeWords [0xA5] { zeroCode := 4, oneCode := 6, widthBits := 3 }).length := by decide

/-- V5: the SG case, the refused widths, and the refused size. -/
theorem witness_BufsizeRoundsUp :
    State.reset.cfg.valid = true ∧ (3 ≤ (3 : Word).toNat ∧ (3 : Word).toNat ≤ 16) ∧
      blockBytes State.reset.cfg 3 800000 55 3 < 2 ^ 32 ∧
      ((2 : Word).toNat < 3 ∧ 16 < (17 : Word).toNat) ∧
      2 ^ 32 ≤ blockBytes State.reset.cfg 4294967295 1 0 16 := by decide

theorem witness_EncodedDataFitsItsRegion :
    Config.refcfg.valid = true ∧ [(1 : Byte), 2, 3].length ≤ 3 := by decide

theorem witness_BlddescBuildsOneShotDescriptor : State.reset.cfg.valid = true := by decide

/-- Before the block, at its first byte, at its last byte, and one beyond (V6). -/
theorem witness_V2busTranslatesInsideTheBlock :
    configured.sess.memStage ≠ .mapped ∧ patterned.sess.memStage = .mapped ∧
      (0x76EFFFFF : Word).toNat < patterned.sess.memVirt.toNat ∧
      patterned.sess.memVirt.toNat ≤ (0x76F00FFF : Word).toNat ∧
      (0x76F00FFF : Word).toNat <
        patterned.sess.memVirt.toNat + patterned.sess.blockBytes.toNat ∧
      patterned.sess.memVirt.toNat + patterned.sess.blockBytes.toNat ≤ (0x76F01000 : Word).toNat ∧
      0 < patterned.sess.blockBytes.toNat := by decide

/-- The last word of the block. -/
theorem witness_MemoryBlockIsLittleEndian :
    ∃ t, memWrite 0x76F00FFC 0xD349A600 patterned = .next t := ⟨_, rfl⟩

theorem witness_PureCommandsReadNoRegister :
    (∃ b d, Instr.solve 1 2 = .solve b d) ∧ State.reset.cfg = Config.refcfg := ⟨⟨1, 2, rfl⟩, rfl⟩

theorem witness_InitOpensASession :
    fresh.sess.state = .uninitialized ∧ (1 : Word).toNat < fresh.cfg.periph.pwmChannels ∧
      (7 : Word).toNat < 2 ^ fresh.cfg.periph.gpioFselBits ∧
      4 * fresh.cfg.gpioIndex 10239 + 4 ≤ fresh.cfg.windowLen ∧ fresh.cfg.indicesFit = true ∧
      fresh.env.grants = true :: true :: true :: true :: [] ∧
      fresh.env.reads = 0x00048000 :: [1, 2] := by decide

/-- The first window refused, and the last. -/
theorem witness_InitClosesWhatItOpened :
    fresh.sess.state = .uninitialized ∧ (0 : Word).toNat < fresh.cfg.periph.pwmChannels ∧
      (2 : Word).toNat < 2 ^ fresh.cfg.periph.gpioFselBits ∧
      4 * fresh.cfg.gpioIndex 18 + 4 ≤ fresh.cfg.windowLen ∧ fresh.cfg.indicesFit = true ∧
      [false, true] = List.replicate 0 true ++ false :: [true] ∧
      [true, true, true, false] = List.replicate 3 true ++ false :: [] := by decide

/-- A session that is live; each operand just out of range; a configuration whose clock register
lies outside its window. -/
theorem witness_InitChecksBeforeItTouches :
    configured.sess.state ≠ .uninitialized ∧ fresh.sess.state = .uninitialized ∧
      fresh.cfg.periph.pwmChannels ≤ (2 : Word).toNat ∧
      2 ^ fresh.cfg.periph.gpioFselBits ≤ (8 : Word).toNat ∧
      fresh.cfg.windowLen < 4 * fresh.cfg.gpioIndex 10240 + 4 ∧
      { fresh.cfg with periph := { fresh.cfg.periph with cmCtlIndex := 1024 } }.indicesFit =
        false := by decide

/-- Each refusal: a pattern already there; 101 percent; frequency 0; no width; 2^32 bytes. -/
theorem witness_CfgpatRefusesBeforeItAllocates :
    fresh.sess.state ≠ .configured ∧ patterned.sess.patternValid = true ∧
      configured.sess.state = .configured ∧ configured.sess.patternValid = false ∧
      100 < (101 : Word).toNat ∧ (100 : Word).toNat ≤ 100 ∧ (1 : Word) ≠ 0 ∧
      chooseWidth (50 : Word).toNat (51 : Word).toNat = none ∧
      chooseWidth (33 : Word).toNat (66 : Word).toNat =
        some { zeroCode := 4, oneCode := 6, widthBits := 3 } ∧
      2 ^ 32 ≤ blockBytes configured.cfg (4294967295 : Word).toNat (1 : Word).toNat
        (0 : Word).toNat 3 := by decide

theorem witness_CfgpatPreparesAPattern :
    answering.cfg.valid = true ∧ WindowsReady answering ∧ answering.sess.state = .configured ∧
      answering.sess.patternValid = false ∧ (33 : Word).toNat ≤ 100 ∧ (66 : Word).toNat ≤ 100 ∧
      (800000 : Word) ≠ 0 ∧
      chooseWidth (33 : Word).toNat (66 : Word).toNat =
        some { zeroCode := 4, oneCode := 6, widthBits := 3 } ∧
      blockBytes answering.cfg (3 : Word).toNat (800000 : Word).toNat (55 : Word).toNat 3 <
        2 ^ 32 ∧
      answering.env.mbox =
        .answered (allocAnswer 5) :: .answered (shortAnswer 0x3000d 0xDE000000) :: [] ∧
      (allocAnswer 5).length = 9 ∧ (shortAnswer 0x3000d 0xDE000000).length = 7 ∧
      (allocAnswer 5).getD 5 0 ≠ 0 ∧ (shortAnswer 0x3000d 0xDE000000).getD 5 0 ≠ 0xFFFFFFFF ∧
      answering.env.maps = some 0x76F00000 :: [] :=
  ⟨refcfg_valid, ready_of rfl rfl rfl, by decide⟩

/-- The common premises; the values of word 5 that tell the clauses apart; exchanges of the
roll-back that fail and that are answered; the three places. -/
theorem witness_CfgpatRollsBackItsAllocation :
    configured.sess.state = .configured ∧ configured.sess.patternValid = false ∧
      configured.sess.memStage = .none ∧ (33 : Word).toNat ≤ 100 ∧ (66 : Word).toNat ≤ 100 ∧
      (800000 : Word) ≠ 0 ∧
      chooseWidth (33 : Word).toNat (66 : Word).toNat =
        some { zeroCode := 4, oneCode := 6, widthBits := 3 } ∧
      blockBytes configured.cfg (3 : Word).toNat (800000 : Word).toNat (55 : Word).toNat 3 <
        2 ^ 32 ∧
      (allocAnswer 0).length = 9 ∧ (allocAnswer 0).getD 5 0 = 0 ∧ (allocAnswer 5).getD 5 0 ≠ 0 ∧
      (shortAnswer 0x3000d 0xFFFFFFFF).length = 7 ∧
      (shortAnswer 0x3000d 0xFFFFFFFF).getD 5 0 = 0xFFFFFFFF ∧
      (shortAnswer 0x3000d 0xFFFFFFFE).getD 5 0 ≠ 0xFFFFFFFF ∧
      exchangeMet 7 .failed = true ∧ exchangeMet 7 (.answered (shortAnswer 0x3000e 0)) = true ∧
      (allocating []).seq = .allocating job ∧ (allocating []).sess.memStage = .none ∧
      (allocating []).sess.state = .configured ∧ (allocating []).sess.patternValid = false ∧
      (locking [] [none]).seq = .locking job ∧ (locking [] [none]).sess.memStage = .allocated ∧
      (locking [] [none]).sess.state = .configured ∧
      (locking [] [none]).sess.patternValid = false ∧
      (locking [] [none]).env.maps = none :: [] := by decide

/-- P4's answers, clause by clause: the states differ in the answers alone, and in the place. -/
theorem witness_CfgpatRollsBack_runs :
    answer (exec (.cfgpat 3 800000 55 33 66)
      { configured with env := { configured.env with mbox := [.failed] } }) = some [0x402] ∧
    answer (exec (.mbAlloc 4096 4096 0xC) (allocating [.answered (allocAnswer 0)])) =
      some [0x102] ∧
    answer (exec (.mbAlloc 4096 4096 0xC)
      (allocating [.answered (allocAnswer 5), .failed, .failed])) = some [0x402] ∧
    answer (exec (.mbLock 5)
      (locking [.answered (shortAnswer 0x3000d 0xDE000000), .failed, .failed] [none])) =
        some [0x302] := by decide

theorem witness_EachMessageIsOneExchange :
    answering.seq = .idle ∧ (allocAnswer 5).length = 9 ∧ (shortAnswer 0x3000d 5).length = 7 ∧
      answering.env.mbox =
        .answered (allocAnswer 5) :: [.answered (shortAnswer 0x3000d 0xDE000000)] ∧
      { configured with env := { configured.env with mbox := released } }.env.mbox =
        .answered (shortAnswer 0x3000e 0) :: [.answered (shortAnswer 0x3000f 0)] := by decide

theorem witness_AllocAnswerIsLockedNext :
    (allocating [.answered (allocAnswer 5), .pending]).seq = .allocating job ∧
      (allocating [.answered (allocAnswer 5), .pending]).env.mbox =
        .answered (allocAnswer 5) :: .pending :: [] ∧
      (allocAnswer 5).length = 9 ∧ (allocAnswer 5).getD 5 0 ≠ 0 := by decide

theorem witness_LockAnswerIsMappedNext :
    Inv (locking [.answered (shortAnswer 0x3000d 0xDE000000)] [some 0x76F00000]) ∧
      (locking [.answered (shortAnswer 0x3000d 0xDE000000)] [some 0x76F00000]).seq =
        .locking job ∧
      (locking [.answered (shortAnswer 0x3000d 0xDE000000)] [some 0x76F00000]).env.mbox =
        .answered (shortAnswer 0x3000d 0xDE000000) :: [] ∧
      (shortAnswer 0x3000d 0xDE000000).length = 7 ∧
      (shortAnswer 0x3000d 0xDE000000).getD 5 0 ≠ 0xFFFFFFFF ∧
      (locking [.answered (shortAnswer 0x3000d 0xDE000000)] [some 0x76F00000]).env.maps =
        some 0x76F00000 :: [] := ⟨inv_locking _ _, by decide⟩

/-- Both places of both releases, their exchanges failed and answered, with and without a noted
error. -/
theorem witness_ReleaseGoesOnPastFailures :
    (exchangeMet 7 .failed = true ∧ exchangeMet 7 (.answered (shortAnswer 0x3000f 0)) = true) ∧
    (Inv (unlocking [.failed, .answered (shortAnswer 0x3000f 0)]) ∧
      (unlocking []).seq = .unlocking (.shutdown none)) ∧
    (Inv (unlocking released) ∧
      (unlocking released).env.mbox =
        .answered (shortAnswer 0x3000e 0) :: .answered (shortAnswer 0x3000f 0) :: []) ∧
    (Inv (unlockingAfterError [.failed, .failed]) ∧
      (unlockingAfterError []).seq = .unlocking (.shutdown (some (.dmaError 2))) ∧
      (unlockingAfterError []).inflight = true) ∧
    (Inv (freeing [.failed]) ∧ (freeing [.failed]).seq = .freeing (.shutdown none) ∧
      (freeing [.failed]).env.mbox = .failed :: []) ∧
    (Inv (freeing [.failed] (some (.alloc .mboxFailed))) ∧
      (freeing [.failed] (some (.alloc .mboxFailed))).seq =
        .freeing (.shutdown (some (.alloc .mboxFailed)))) ∧
    Inv (rollingBack (.unlocking rollBack) .locked 0x3000e [.failed, .failed]) ∧
      Inv (rollingBack (.freeing rollBack) .allocated 0x3000f [.failed]) :=
  ⟨by decide, ⟨inv_unlocking _, rfl⟩, ⟨inv_unlocking _, rfl⟩, ⟨inv_unlockingAfterError _, rfl, rfl⟩,
    ⟨inv_freeing _, rfl, rfl⟩, ⟨inv_freeing_noted _, rfl⟩, (inv_rollingBack _).1, (inv_rollingBack _).2⟩

theorem witness_UnansweredMessageWaits :
    (Instr.mbUnlock 5).carrier = .mailbox ∧
      (unlocking [.pending]).mbox =
        { buf := encode (unlocking [.pending]).cfg.mboxReqCode (.mbUnlock 5), waiting := true } ∧
      (unlocking [.pending]).env.mbox = .pending :: [] ∧
      (unlocking [.pending]).chan.resetLine = false := by decide

/-- A payload of BYTE_COUNT bytes, BUSY clear and set; the first poll reads 0, and so does a later
one. -/
theorem witness_SendRewritesRegionAndStarts :
    ((AtCommand patterned ∧ patterned.chan.busy = false) ∧ AtCommand (accept [3] [] patterned) ∧
      (accept [3] [] patterned).chan.busy = true) ∧
    (AtCommand (polling (.send [0xFF]) [0]) ∧ (polling (.send [0xFF]) [0]).chan.busy = true) ∧
    patterned.sess.state = .configured ∧ patterned.sess.patternValid = true ∧
      [(0xFF : Byte), 0, 0xAA].length ≤ patterned.sess.byteCount.toNat ∧
      (polling (.send [0xFF]) [0]).sess.state = .sending ∧
      (polling (.send [0xFF]) [0]).seq = .polling (.send [0xFF]) ∧
      (polling (.send [0xFF]) [0]).env.reads = 0 :: [] ∧
      (0 : Word) &&& patterned.cfg.periph.dmaCsError = 0 ∧
      (0 : Word) &&& patterned.cfg.periph.dmaCsActive = 0 :=
  ⟨at_command (inv_patterned _) rfl _, at_polling _ _ _, by decide⟩

theorem witness_SendRefusesALongBuffer :
    (patterned.sess.state = .configured ∧ patterned.sess.patternValid = true) ∧
      (sending [] []).sess.state = .sending ∧
      patterned.sess.byteCount.toNat < [(0 : Byte), 1, 2, 3].length := by decide

theorem witness_WaitEndsTheTransfer :
    WindowsReady (polling .wait [2]) ∧ configured.sess.state = .configured ∧
      (polling .wait [2]).sess.state = .sending ∧ (polling .wait [2]).env.reads = 2 :: [] ∧
      (2 : Word) &&& (polling .wait [2]).cfg.periph.dmaCsError = 0 ∧
      (2 : Word) &&& (polling .wait [2]).cfg.periph.dmaCsActive = 0 ∧
      (polling .wait [2]).chan.resetLine = false ∧ (polling .wait [2]).mbox.waiting = false ∧
      (polling .wait [2]).seq = .polling .wait :=
  ⟨ready_of rfl rfl rfl, by decide⟩

/-- P3's status word: error and active both set. -/
theorem witness_DmaErrorIsReportedWithDebugWord :
    WindowsReady (polling (.send [1]) [0x101, 2]) ∧
      (polling (.send [1]) [0x101, 2]).sess.state = .sending ∧
      (polling (.send [1]) [0x101, 2]).env.reads = 0x101 :: 2 :: [] ∧
      (0x101 : Word) &&& (polling (.send [1]) [0x101, 2]).cfg.periph.dmaCsError ≠ 0 ∧
      [(1 : Byte)].length ≤ (polling (.send [1]) [0x101, 2]).sess.byteCount.toNat ∧
      (polling (.send [1]) [0x101, 2]).chan.resetLine = false ∧
      (polling (.send [1]) [0x101, 2]).mbox.waiting = false ∧
      (polling (.send [1]) [0x101, 2]).seq = .polling (.send [1]) :=
  ⟨ready_of rfl rfl rfl, by decide⟩

theorem witness_ActiveChannelKeepsTheCommandPolling :
    WindowsReady (polling .shutdown [1]) ∧ (polling .shutdown [1]).env.reads = 1 :: [] ∧
      (1 : Word) &&& (polling .shutdown [1]).cfg.periph.dmaCsError = 0 ∧
      (1 : Word) &&& (polling .shutdown [1]).cfg.periph.dmaCsActive ≠ 0 ∧
      (polling .shutdown [1]).chan.resetLine = false ∧
      (polling .shutdown [1]).mbox.waiting = false ∧
      (polling .shutdown [1]).seq = .polling .shutdown ∧ (sending [1] []).sess.state = .sending ∧
      [(1 : Byte), 2, 3].length ≤ (sending [1] []).sess.byteCount.toNat :=
  ⟨ready_of rfl rfl rfl, by decide⟩

/-- The four situations, BUSY clear and set, and a later poll. -/
theorem witness_ShutdownReleasesInReverseOrder :
    ((AtCommand State.reset ∧ State.reset.chan.busy = false) ∧
      AtCommand (accept [5] [] State.reset) ∧ (accept [5] [] State.reset).chan.busy = true) ∧
    ((AtCommand configured ∧ configured.chan.busy = false) ∧
      AtCommand (accept [5] [] configured) ∧ (accept [5] [] configured).chan.busy = true) ∧
    AtCommand { patterned with env := { patterned.env with mbox := released } } ∧
    (AtCommand (polling .shutdown [2] released) ∧
      (polling .shutdown [2] released).chan.busy = true) ∧
    State.reset.sess.state = .uninitialized ∧ configured.sess.state = .configured ∧
      configured.sess.patternValid = false ∧ patterned.sess.state = .configured ∧
      patterned.sess.patternValid = true ∧ (shortAnswer 0x3000e 0).length = 7 ∧
      released = .answered (shortAnswer 0x3000e 0) :: .answered (shortAnswer 0x3000f 0) :: [] ∧
      (polling .shutdown [2] released).sess.state = .sending ∧
      (polling .shutdown [2] released).seq = .polling .shutdown ∧
      (polling .shutdown [2] released).env.reads = 2 :: [] ∧
      (2 : Word) &&& Config.refcfg.periph.dmaCsError = 0 ∧
      (2 : Word) &&& Config.refcfg.periph.dmaCsActive = 0 :=
  ⟨at_command inv_reset rfl _, at_command (inv_configured _) rfl _,
    (inv_patterned _).atCommand rfl, at_polling _ _ _, by decide⟩

/-- Configured with a pattern; Sending with the transfer ended and with a DMA error, each at a
first and at a later poll; exchanges that fail and that are answered. -/
theorem witness_ShutdownReportsItsFirstError :
    (exchangeMet 7 .failed = true ∧ exchangeMet 7 (.answered (shortAnswer 0x3000f 0)) = true) ∧
    AtCommand { patterned with env := { patterned.env with mbox := [.failed, .failed] } } ∧
    ((AtCommand (sending [0x100, 2] [.failed, .failed]) ∧
        (sending [0x100, 2] [.failed, .failed]).chan.busy = false) ∧
      AtCommand (accept [5] [] (sending [0x100, 2] [.failed, .failed])) ∧
      (accept [5] [] (sending [0x100, 2] [.failed, .failed])).chan.busy = true) ∧
    (AtCommand (polling .shutdown [2] [.failed, .answered (shortAnswer 0x3000f 0)]) ∧
      (polling .shutdown [2] [.failed, .answered (shortAnswer 0x3000f 0)]).chan.busy = true) ∧
    patterned.sess.state = .configured ∧ patterned.sess.patternValid = true ∧
      (sending [0x100, 2] []).sess.state = .sending ∧
      (sending [0x100, 2] []).env.reads = 0x100 :: 2 :: [] ∧
      (0x100 : Word) &&& Config.refcfg.periph.dmaCsError ≠ 0 ∧
      (polling .shutdown [2]).seq = .polling .shutdown ∧
      (2 : Word) &&& Config.refcfg.periph.dmaCsError = 0 ∧
      (2 : Word) &&& Config.refcfg.periph.dmaCsActive = 0 :=
  ⟨by decide, (inv_patterned _).atCommand rfl, at_command (inv_sending _ _) rfl _,
    at_polling _ _ _, by decide⟩

/-- At once, BUSY clear and set, with no frame left; after a poll, and after each exchange. -/
theorem witness_RespondedShutdownEndsCleanly :
    (∃ t, AtCommand configured ∧ configured.sess.state ≠ .shutDown ∧
      exec .shutdown configured = .next t ∧ t.seq = .idle ∧ t.chan.frames = []) ∧
    (∃ t, AtCommand (accept [5] [] configured) ∧
      exec .shutdown (accept [5] [] configured) = .next t ∧ t.seq = .idle) ∧
    (∃ t, Inv (freeing [.failed]) ∧ ShuttingDown (freeing [.failed]) ∧
      step (freeing [.failed]) = .next t ∧ t.seq = .idle) ∧
    (∃ t, Inv (unlocking [.failed, .failed]) ∧ ShuttingDown (unlocking [.failed, .failed]) ∧
      step (unlocking [.failed, .failed]) = .next t ∧ t.seq = .idle) ∧
    (∃ t, Inv (offered [5]) ∧ ShuttingDown (offered [5]) ∧ step (offered [5]) = .next t ∧
      t.seq = .idle) ∧
    Inv (polling .shutdown [2] [.failed, .failed]) ∧
      ShuttingDown (polling .shutdown [2] [.failed, .failed]) ∧
      after State.seq (step (polling .shutdown [2] [.failed, .failed])) = some .idle :=
  ⟨⟨_, (inv_configured _).atCommand rfl, nofun, rfl, rfl, rfl⟩,
    ⟨_, ((inv_configured _).accepted rfl _ _).toAtCommand, rfl, rfl⟩,
    ⟨_, inv_freeing _, .inr (.inr (.inr ⟨_, rfl⟩)), rfl, rfl⟩,
    ⟨_, inv_unlocking _, .inr (.inr (.inl ⟨_, rfl⟩)), rfl, rfl⟩,
    ⟨_, inv_offered _, .inl ⟨_, rfl⟩, rfl, rfl⟩,
    inv_polling _ _ _, .inr (.inl rfl), by decide⟩

theorem witness_DresetResetsTheChannel :
    (WindowsReady configured ∧ configured.sess.state = .configured) ∧
      WindowsReady (sending [] []) ∧ (sending [] []).sess.state = .sending :=
  ⟨⟨ready_of rfl rfl rfl, rfl⟩, ready_of rfl rfl rfl, rfl⟩

theorem witness_WrongStateIsRefused :
    configured.sess.state ≠ .uninitialized ∧
      ¬ (patterned.sess.state = .configured ∧ patterned.sess.patternValid = false) ∧
      ¬ (configured.sess.state = .configured ∧ configured.sess.patternValid = true) ∧
      configured.sess.state ≠ .sending ∧ fresh.sess.state ≠ .configured ∧
      fresh.sess.state ≠ .sending ∧ shutDown.sess.state = .shutDown := by decide

/-- A command that ends in an error, and steps that end one later: a message's and a poll's. -/
theorem witness_ErrorKindsOfEachCommand :
    (∃ t es ws, Instr.wait.carrier = .command ∧ exec .wait fresh = .next t ∧
      t.trace = fresh.trace ++ es ∧ ws ∈ responses es) ∧
    (∃ t es ws, Inv (freeing [.failed]) ∧ step (freeing [.failed]) = .next t ∧
      t.trace = (freeing [.failed]).trace ++ es ∧ ws ∈ responses es) ∧
    ∃ t es ws, Inv (polling .wait [0x100, 2]) ∧ step (polling .wait [0x100, 2]) = .next t ∧
      t.trace = (polling .wait [0x100, 2]).trace ++ es ∧ ws ∈ responses es ∧ kindOf ws = 4 :=
  ⟨⟨_, [.response [0x305]], [0x305], rfl, rfl, rfl, by decide⟩,
    ⟨_, _, [0x402], inv_freeing _, rfl, rfl, by decide⟩,
    ⟨_, _, [0x104, 2], inv_polling _ _, rfl, rfl, by decide, by decide⟩⟩

theorem witness_UsageErrorsChangeNothing :
    ∃ t es ws, Instr.wait.carrier = .command ∧ exec .wait fresh = .next t ∧
      t.trace = fresh.trace ++ es ∧ ws ∈ responses es ∧ kindOf ws = 5 :=
  ⟨_, [.response [0x305]], [0x305], rfl, rfl, rfl, by decide, by decide⟩

/-- A command that moves STATE and one that ends in an error, and steps that do: a later poll of
WAIT, a message of SHUTDOWN's release, a later poll that meets an error. -/
theorem witness_StateMovesOnlyAsListed :
    (∃ t es, Instr.dreset.carrier = .command ∧ exec .dreset (sending [] []) = .next t ∧
      t.trace = (sending [] []).trace ++ es ∧ t.sess.state ≠ (sending [] []).sess.state) ∧
    (∃ t es, exec .wait fresh = .next t ∧ t.trace = fresh.trace ++ es ∧ Instr.wait ≠ .shutdown ∧
      ∃ ws ∈ responses es, kindOf ws ≠ 0) ∧
    (∃ t es, Inv (polling .wait [2]) ∧ step (polling .wait [2]) = .next t ∧
      t.trace = (polling .wait [2]).trace ++ es ∧
      t.sess.state ≠ (polling .wait [2]).sess.state) ∧
    (∃ t es, Inv (freeing [.failed]) ∧ step (freeing [.failed]) = .next t ∧
      t.trace = (freeing [.failed]).trace ++ es ∧
      t.sess.state ≠ (freeing [.failed]).sess.state) ∧
    ∃ t es, Inv (polling .wait [0x100, 2]) ∧ step (polling .wait [0x100, 2]) = .next t ∧
      t.trace = (polling .wait [0x100, 2]).trace ++ es ∧
      ¬ ShuttingDown (polling .wait [0x100, 2]) ∧ ∃ ws ∈ responses es, kindOf ws ≠ 0 :=
  ⟨⟨_, _, rfl, rfl, rfl, nofun⟩,
    ⟨_, [.response [0x305]], rfl, rfl, nofun, [0x305], by decide, by decide⟩,
    ⟨_, _, inv_polling _ _, rfl, rfl, nofun⟩, ⟨_, _, inv_freeing _, rfl, rfl, nofun⟩,
    ⟨_, _, inv_polling _ _, rfl, rfl, wait_is_no_shutdown _, [0x104, 2], by decide, by decide⟩⟩

theorem witness_ShutDownIsTerminal :
    ∃ s t, Inv s ∧ s.sess.state = .shutDown ∧ s.chan.frames = [[5]] ∧ step s = .next t :=
  ⟨_, _, inv_shutDown [[5]], rfl, rfl, rfl⟩

theorem witness_FaultIsSticky :
    ∃ s t, s.chan.resetLine = false ∧ s.sess.fault = true ∧ step s = .next t :=
  ⟨{ offered [0] with sess := { Session.reset with fault := true } }, _, rfl, rfl, rfl⟩

theorem witness_OtherCommandsLeaveMemory :
    ∃ t, exec .shutdown (sending [2] released) = .next t ∧
      (∀ n f r z o, Instr.shutdown ≠ .cfgpat n f r z o) ∧ (∀ p, Instr.shutdown ≠ .send p) ∧
      (∀ a b c, Instr.shutdown ≠ .mbAlloc a b c) ∧ (∀ h, Instr.shutdown ≠ .mbLock h) :=
  ⟨_, rfl, nofun, nofun, nofun, nofun⟩

theorem witness_TransferCommandsKeepRegisters :
    ∃ t, exec (.send [0xFF]) patterned = .next t := goesOn_iff (by decide)

theorem witness_ShutdownKeepsOtherRegisters :
    ∃ t, exec .shutdown (sending [2] released) = .next t := goesOn_iff (by decide)

theorem witness_OnlyTwoCommandsUseTheMailbox :
    ∃ t, Instr.wait.carrier = .command ∧ exec .wait (sending [2] []) = .next t ∧
      (∀ n f r z o, Instr.wait ≠ .cfgpat n f r z o) ∧ Instr.wait ≠ .shutdown :=
  ⟨_, rfl, rfl, nofun, nofun⟩

theorem witness_HistoryGrowsConfigurationStays : ∃ t, step (polling .wait [1]) = .next t :=
  ⟨_, rfl⟩

theorem witness_HardwareResetIsOneStep :
    { sending [] [] with chan := { patterned.chan with resetLine := true } }.chan.resetLine =
      true := rfl

theorem witness_EveryStepKeepsTheInvariant :
    Inv (polling (.send [0xFF]) [0]) ∧ Inv (allocating [.answered (allocAnswer 5), .failed]) ∧
      Inv (locking [] []) ∧ Inv (unlocking []) ∧ Inv (freeing []) ∧ Inv (offered [1]) ∧
      Inv (sending [] []) ∧ Inv (rollingBack (.unlocking rollBack) .locked 0x3000e []) :=
  ⟨inv_polling _ _, inv_allocating _, inv_locking _ _, inv_unlocking _, inv_freeing _,
    inv_offered _, inv_sending _ _, (inv_rollingBack _).1⟩

/-- A step that does write the block and reset the channel, once the poll reads the transfer over. -/
theorem witness_NoStepDisturbsATransfer :
    ∃ t, Inv (polling (.send [0xFF]) [0]) ∧ step (polling (.send [0xFF]) [0]) = .next t ∧
      (∀ u, nextWork (polling (.send [0xFF]) [0]) ≠ .run .dreset u) ∧
      t.mem ≠ (polling (.send [0xFF]) [0]).mem := by
  obtain ⟨t, ht⟩ := goesOn_iff (r := step (polling (.send [0xFF]) [0])) (by decide)
  have hw : nextWork (polling (.send [0xFF]) [0]) = .poll (.send [0xFF]) := by decide
  have hm : after State.mem (step (polling (.send [0xFF]) [0])) ≠ some [] := by decide
  refine ⟨t, inv_polling _ _, ht, fun u => by rw [hw]; nofun, fun h => hm ?_⟩
  rw [ht]
  exact congrArg some h

theorem witness_EveryStepKeepsMemoryCanonical :
    ∃ t, (polling (.send [0xFF]) [0]).mem.wf ∧ step (polling (.send [0xFF]) [0]) = .next t := by
  obtain ⟨t, ht⟩ := goesOn_iff (r := step (polling (.send [0xFF]) [0])) (by decide)
  exact ⟨t, List.Pairwise.nil, ht⟩

end Sys2Proof.Tests
end

section
/-! ## What no instruction undoes

Configuration, offered frames, FAULT and history, followed through every operation once, so that a
statement about any of them needs no case split on the instructions. -/

namespace Sys2Proof.Machine

/-- What a command's meaning leaves of the state it starts from, whatever else it does: the
configuration (70_reset_and_hazards.md R283), the frames still offered (30_encoding.md R100), FAULT
where it is set (10_state.md R25), and the history so far (log 7). -/
structure Keeps (s t : State) : Prop where
  config : t.cfg = s.cfg
  frames : t.chan.frames = s.chan.frames
  fault : s.sess.fault = true → t.sess.fault = true
  history : s.trace <+: t.trace

/-- If `r` is a next state, it keeps what `s` has. -/
def KeepsIfNext (s : State) (r : Res) : Prop := ∀ t, r = .next t → Keeps s t

theorem Keeps.refl (s : State) : Keeps s s := ⟨rfl, rfl, id, List.prefix_rfl⟩

theorem Keeps.after {s t u : State} (g : Keeps t u) (h : Keeps s t) : Keeps s u :=
  ⟨g.config.trans h.config, g.frames.trans h.frames, g.fault ∘ h.fault, h.history.trans g.history⟩

theorem Keeps.next {s t : State} (h : Keeps s t) : KeepsIfNext s (.next t) := by
  rintro _ ⟨⟩
  exact h

theorem KeepsIfNext.after {s t : State} {r : Res} (g : KeepsIfNext t r) (h : Keeps s t) :
    KeepsIfNext s r := fun u hu => (g u hu).after h

theorem KeepsIfNext.andThen {s : State} {r : Res} {k : State → Res} (h : KeepsIfNext s r)
    (g : ∀ t, KeepsIfNext t (k t)) : KeepsIfNext s (andThen r k) := by
  intro u hu
  obtain ⟨t, ht, hk⟩ := andThen_eq_next hu
  exact (g t u hk).after (h t ht)

/-! ### Operations -/

theorem respond_keeps (ws : List Word) (s : State) : Keeps s (respond ws s) :=
  ⟨rfl, rfl, id, List.prefix_append _ _⟩

theorem perform_keeps (a : Action) (s : State) : Keeps s (perform a s) := by
  obtain ⟨es, h⟩ := perform_trace_prefix a s
  exact ⟨by simp, by simp, by simp, es, h.symm⟩

theorem emit_keeps (a : Action) (s : State) : KeepsIfNext s (emit a s) := by
  intro t h
  obtain ⟨rfl, -⟩ := emit_eq_next h
  exact perform_keeps a s

theorem emitAll_keeps (as : List Action) (s : State) : KeepsIfNext s (emitAll as s) := by
  induction as generalizing s with
  | nil => exact (Keeps.refl s).next
  | cons a as ih => exact (emit_keeps a s).andThen ih

theorem memWrites_keeps (addr : Nat) (vs : List Word) (s : State) :
    KeepsIfNext s (memWrites addr vs s) := by
  intro t h
  rw [memWrites_eq_next h]
  exact ⟨rfl, rfl, id, List.prefix_append _ _⟩

theorem winOpen_keeps (n : WinName) (phys : Word) (s : State) : Keeps s (winOpen n phys s) :=
  ⟨rfl, rfl, id, List.prefix_append _ _⟩

theorem winClose_keeps (n : WinName) (s : State) : Keeps s (winClose n s) := by
  unfold winClose
  split
  · exact ⟨rfl, rfl, id, List.prefix_append _ _⟩
  · exact Keeps.refl s

theorem openWindows_keeps (ws : List (WinName × Word)) (s : State) :
    Keeps s (openWindows ws s).2 := by
  induction ws generalizing s with
  | nil => exact Keeps.refl s
  | cons w ws ih =>
    obtain ⟨n, phys⟩ := w
    have hrest := (ih _).after (winOpen_keeps n phys s)
    unfold openWindows
    split
    · split
      · rename_i u hu
        simpa [hu] using hrest
      · rename_i refused u hu
        rw [hu] at hrest
        exact (winClose_keeps n u).after hrest
    · exact winOpen_keeps n phys s

theorem mboxCall_keeps (m : List Word) (s : State) : Keeps s (mboxCall m s) :=
  ⟨rfl, rfl, id, List.prefix_append _ _⟩

/-! ### The release chain (42_mailbox_allocator.md R180, R181) -/

theorem finishShutdown_keeps (n : Option CmdError) (s : State) : Keeps s (finishShutdown n s) := by
  have hclose := (winClose_keeps .gpio _).after <| (winClose_keeps .pwm _).after <|
    (winClose_keeps .cm _).after (winClose_keeps .dma s)
  refine ⟨by simp, by simp, by simp, hclose.history.trans ?_⟩
  unfold finishShutdown
  cases n with
  | none => exact List.prefix_append _ _
  | some e => exact List.prefix_append _ _

theorem finishRelease_keeps (r : Releaser) (s : State) : Keeps s (finishRelease r s) := by
  cases r with
  | rollBack e => exact ⟨rfl, rfl, id, List.prefix_append _ _⟩
  | shutdown n => exact finishShutdown_keeps n s

theorem mbFree_keeps (h : Word) (s : State) : Keeps s (mbFree h s) := by
  rcases mbFree_cases h s with ⟨e, -⟩ | ⟨r, -, -, e⟩ <;> rw [e]
  · exact mboxCall_keeps _ s
  · exact (finishRelease_keeps _ _).after (mboxCall_keeps _ s)

theorem mbUnlock_keeps (h : Word) (s : State) : Keeps s (mbUnlock h s) := by
  rcases mbUnlock_cases h s with ⟨e, -⟩ | ⟨r, -, -, e⟩ <;> rw [e]
  · exact mboxCall_keeps _ s
  · exact (mbFree_keeps _ _).after ⟨rfl, rfl, id, List.prefix_append _ _⟩

theorem startRelease_keeps (r : Releaser) (s : State) : Keeps s (startRelease r s) := by
  unfold startRelease
  split
  · exact finishRelease_keeps r s
  · exact (mbFree_keeps _ _).after ⟨rfl, rfl, id, List.prefix_rfl⟩
  · exact (mbUnlock_keeps _ _).after ⟨rfl, rfl, id, List.prefix_rfl⟩
  · exact (mbUnlock_keeps _ _).after ⟨rfl, rfl, id, List.prefix_append _ _⟩

/-! ### The allocation chain (R179) -/

theorem finishConfigure_keeps (j : CfgJob) (s : State) : KeepsIfNext s (finishConfigure j s) :=
  (memWrites_keeps _ _ s).andThen fun a =>
    (emitAll_keeps _ a).andThen fun b =>
      (memWrites_keeps _ _ b).andThen fun _ =>
        Keeps.next ⟨rfl, rfl, id, List.prefix_append _ _⟩

theorem mapBlock_keeps (j : CfgJob) (s : State) : KeepsIfNext s (mapBlock j s) := by
  unfold mapBlock
  dsimp only
  split
  · exact Keeps.next <|
      (startRelease_keeps _ _).after ⟨rfl, rfl, id, List.prefix_append _ _⟩
  · exact (finishConfigure_keeps j _).after ⟨rfl, rfl, id, List.prefix_append _ _⟩

theorem afterLock_keeps (j : CfgJob) (a : MboxAnswer) (s : State) :
    KeepsIfNext s (afterLock j a s) := by
  unfold afterLock
  split
  · exact (Keeps.refl s).next
  · exact (startRelease_keeps _ s).next
  · split
    · exact (startRelease_keeps _ s).next
    · exact (mapBlock_keeps j _).after ⟨rfl, rfl, id, List.prefix_rfl⟩

theorem mbLock_keeps (h : Word) (s : State) : KeepsIfNext s (mbLock h s) := by
  unfold mbLock
  dsimp only
  split
  · exact (afterLock_keeps _ _ _).after (mboxCall_keeps _ s)
  · exact (mboxCall_keeps _ s).next

theorem afterAlloc_keeps (j : CfgJob) (a : MboxAnswer) (s : State) :
    KeepsIfNext s (afterAlloc j a s) := by
  unfold afterAlloc
  split
  · exact (Keeps.refl s).next
  · exact (startRelease_keeps _ s).next
  · split
    · exact (startRelease_keeps _ s).next
    · exact (mbLock_keeps _ _).after ⟨rfl, rfl, id, List.prefix_rfl⟩

theorem mbAlloc_keeps (size align flags : Word) (s : State) :
    KeepsIfNext s (mbAlloc size align flags s) := by
  unfold mbAlloc
  dsimp only
  split
  · exact (afterAlloc_keeps _ _ _).after (mboxCall_keeps _ s)
  · exact (mboxCall_keeps _ s).next

/-! ### DmaWait and what follows it (43_dma_engine.md R196) -/

theorem startSend_keeps (payload : List Byte) (s : State) : KeepsIfNext s (startSend payload s) :=
  (memWrites_keeps _ _ s).andThen fun a =>
    (emitAll_keeps _ a).andThen fun _ => Keeps.next ⟨rfl, rfl, id, List.prefix_append _ _⟩

theorem emitIf_keeps (b : Bool) (a : Action) (s : State) :
    KeepsIfNext s (if b then emit a s else .next s) := by
  split
  · exact emit_keeps a s
  · exact (Keeps.refl s).next

theorem leaveSession_keeps (n : Option CmdError) (s : State) : KeepsIfNext s (leaveSession n s) :=
  (emitIf_keeps _ _ s).andThen fun a =>
    (emitIf_keeps _ _ a).andThen fun b => (startRelease_keeps _ b).next

theorem afterWait_keeps (k : Poller) (s : State) : KeepsIfNext s (afterWait k s) := by
  unfold afterWait
  split
  · exact Keeps.next ⟨rfl, rfl, id, List.prefix_append _ _⟩
  · exact (startSend_keeps _ _).after ⟨rfl, rfl, id, List.prefix_rfl⟩
  · exact leaveSession_keeps none s

theorem afterWaitError_keeps (k : Poller) (debug : Word) (s : State) :
    KeepsIfNext s (afterWaitError k debug s) := by
  unfold afterWaitError
  split
  · exact (respond_keeps _ s).next
  · exact (respond_keeps _ s).next
  · exact leaveSession_keeps _ s

theorem dmaPoll_keeps (k : Poller) (s : State) : KeepsIfNext s (dmaPoll k s) := by
  refine (emit_keeps _ s).andThen fun a => ?_
  dsimp only
  split
  · refine (emit_keeps _ a).andThen fun b => ?_
    exact (afterWaitError_keeps k _ _).after ⟨rfl, rfl, fun _ => rfl, List.prefix_rfl⟩
  · split
    · exact (afterWait_keeps k _).after ⟨rfl, rfl, id, List.prefix_rfl⟩
    · exact Keeps.next ⟨rfl, rfl, id, List.prefix_append _ _⟩

/-! ### Commands -/

theorem execInit_keeps (g alt ch base : Word) (s : State) :
    KeepsIfNext s (execInit g alt ch base s) := by
  have hopen := openWindows_keeps (initWindows s.cfg base) s
  refine Keeps.next ?_
  split
  · exact respond_keeps _ s
  split
  · exact respond_keeps _ s
  split
  · exact respond_keeps _ s
  split
  · rename_i refused t ht
    rw [ht] at hopen
    exact (respond_keeps _ _).after ⟨hopen.config, hopen.frames, hopen.fault, hopen.history⟩
  · rename_i t ht
    rw [ht] at hopen
    have hpin := (perform_keeps (.gpioAlt g alt) t).after hopen
    exact (respond_keeps _ _).after ⟨hpin.config, hpin.frames, hpin.fault, hpin.history⟩

theorem execCfgpat_keeps (count freq delay zero one : Word) (s : State) :
    KeepsIfNext s (execCfgpat count freq delay zero one s) := by
  unfold execCfgpat
  split
  · exact (respond_keeps _ s).next
  split
  · exact (respond_keeps _ s).next
  split
  · exact (respond_keeps _ s).next
  dsimp only
  split
  · exact (respond_keeps _ s).next
  · exact (mbAlloc_keeps _ _ _ _).after ⟨rfl, rfl, id, List.prefix_rfl⟩

theorem execSend_keeps (payload : List Byte) (s : State) :
    KeepsIfNext s (execSend payload s) := by
  unfold execSend
  split
  · exact (respond_keeps _ s).next
  split
  · exact (respond_keeps _ s).next
  split
  · exact dmaPoll_keeps _ s
  · exact startSend_keeps payload s

theorem execWait_keeps (s : State) : KeepsIfNext s (execWait s) := by
  unfold execWait
  split
  · exact (respond_keeps _ s).next
  split
  · exact dmaPoll_keeps _ s
  · exact (respond_keeps _ s).next

theorem execShutdown_keeps (s : State) : KeepsIfNext s (execShutdown s) := by
  unfold execShutdown
  split
  · exact (respond_keeps _ s).next
  split
  · exact dmaPoll_keeps _ s
  · exact leaveSession_keeps none s

theorem execDreset_keeps (s : State) : KeepsIfNext s (execDreset s) := by
  unfold execDreset
  split
  · exact (emit_keeps _ s).andThen fun t => Keeps.next ⟨rfl, rfl, id, List.prefix_append _ _⟩
  · exact (respond_keeps _ s).next

/-- The commands that change nothing and only answer: STAT, the two solvers, the pattern encoder's
three, BUFSIZE, BLDDESC and V2BUS. -/
def isQuery : Instr → Bool
  | .stat | .solve _ _ | .solveu _ _ | .repr _ _ | .chwidth _ _ | .encode _ _ _ _
  | .bufsize _ _ _ _ | .blddesc _ _ _ | .v2bus _ => true
  | _ => false

/-- A query does nothing but respond. -/
theorem exec_of_isQuery {i : Instr} (h : isQuery i = true) (s : State) :
    ∃ ws, exec i s = .next (respond ws s) := by
  cases i with
  | stat => exact ⟨_, rfl⟩
  | blddesc source dest length => exact ⟨_, rfl⟩
  | solve base desired => dsimp only [exec, execSolve]; split <;> exact ⟨_, rfl⟩
  | solveu base desired => dsimp only [exec, execSolveu]; split <;> exact ⟨_, rfl⟩
  | repr percent width => dsimp only [exec, execRepr]; split <;> exact ⟨_, rfl⟩
  | encode zero one width payload => dsimp only [exec, execEncode]; split <;> exact ⟨_, rfl⟩
  | bufsize count freq delay width => dsimp only [exec, execBufsize]; split <;> exact ⟨_, rfl⟩
  | chwidth zero one =>
    dsimp only [exec, execChwidth]
    split
    · split <;> exact ⟨_, rfl⟩
    · exact ⟨_, rfl⟩
  | v2bus pointer =>
    dsimp only [exec, execV2bus]
    split
    · exact ⟨_, rfl⟩
    · split <;> exact ⟨_, rfl⟩
  | _ => cases h

/-- Every instruction keeps configuration, offered frames, FAULT and history, from any state. -/
theorem exec_keeps (i : Instr) (s : State) : KeepsIfNext s (exec i s) := by
  by_cases hq : isQuery i = true
  · obtain ⟨ws, h⟩ := exec_of_isQuery hq s
    rw [h]
    exact (respond_keeps ws s).next
  cases i with
  | init g alt ch base => exact execInit_keeps g alt ch base s
  | cfgpat n f r z o => exact execCfgpat_keeps n f r z o s
  | send payload => exact execSend_keeps payload s
  | wait => exact execWait_keeps s
  | shutdown => exact execShutdown_keeps s
  | dreset => exact execDreset_keeps s
  | mbAlloc size align flags => exact mbAlloc_keeps size align flags s
  | mbLock h => exact mbLock_keeps h s
  | mbUnlock h => exact (mbUnlock_keeps h s).next
  | mbFree h => exact (mbFree_keeps h s).next
  | _ => exact absurd rfl hq

end Sys2Proof.Machine
end

section
/-! ## What a step can do -/

namespace Sys2Proof.Machine

/-- The ways a step goes from `s` to a next state: a case of `nextWork` each, with what it found
there and what was run. -/
inductive Stepped (s : State) : State → Prop
  | reset (line : s.chan.resetLine = true) : Stepped s (hardReset s)
  | message {i : Instr} {t : State} (line : s.chan.resetLine = false)
      (waits : s.mbox.waiting = true)
      (decoded : decodeMessage s.cfg.mboxReqCode s.mbox.buf = .ok i)
      (ran : exec i s = .next t) : Stepped s t
  | poll {k : Poller} {t : State} (line : s.chan.resetLine = false)
      (waits : s.mbox.waiting = false) (polls : s.seq = .polling k)
      (ran : dmaPoll k s = .next t) : Stepped s t
  | command {f : List Word} {rest : List (List Word)} {i : Instr} {t : State} (ready : Ready s)
      (offered : s.chan.frames = f :: rest) (decoded : decodeFrame f = .ok i)
      (ran : exec i (accept f rest s) = .next t) : Stepped s t
  | refusal {f : List Word} {rest : List (List Word)} {e : DecodeError} (ready : Ready s)
      (offered : s.chan.frames = f :: rest) (decoded : decodeFrame f = .error e) :
      Stepped s (raise (.usage (decodeCause e)) (accept f rest s))
  | idle (line : s.chan.resetLine = false) (waits : s.mbox.waiting = false) : Stepped s s

/-- A step that answers a next state went one of these ways. -/
theorem step_cases {s t : State} (h : step s = .next t) : Stepped s t := by
  unfold step at h
  by_cases hl : s.chan.resetLine = true
  · simp only [nextWork, hl, if_true] at h
    cases h
    exact .reset hl
  replace hl : s.chan.resetLine = false := by simpa using hl
  by_cases hw : s.mbox.waiting = true
  · cases hd : decodeMessage s.cfg.mboxReqCode s.mbox.buf with
    | error e => simp [nextWork, hl, hw, hd] at h
    | ok i => exact .message hl hw hd (by simpa [nextWork, hl, hw, hd] using h)
  replace hw : s.mbox.waiting = false := by simpa using hw
  have hidle (hn : nextWork s = .idle) : Stepped s t := by
    rw [hn] at h
    cases h
    exact .idle hl hw
  cases hq : s.seq with
  | polling k => exact .poll hl hw hq (by simpa [nextWork, hl, hw, hq] using h)
  | idle =>
    cases hf : s.chan.frames with
    | nil => exact hidle (by simp [nextWork, hl, hw, hq, nextFrame, hf])
    | cons f rest =>
      cases hb : s.chan.busy with
      | true => exact hidle (by simp [nextWork, hl, hw, hq, nextFrame, hf, hb])
      | false =>
        cases hd : decodeFrame f with
        | ok i =>
          refine .command ⟨hl, hw, hq, hb⟩ hf hd ?_
          simpa [nextWork, hl, hw, hq, nextFrame, hf, hb, hd] using h
        | error e =>
          simp only [nextWork, hl, hw, hq, nextFrame, hf, hb, hd] at h
          cases h
          exact .refusal ⟨hl, hw, hq, hb⟩ hf hd
  | allocating j => exact hidle (by simp [nextWork, hl, hw, hq])
  | locking j => exact hidle (by simp [nextWork, hl, hw, hq])
  | unlocking r => exact hidle (by simp [nextWork, hl, hw, hq])
  | freeing r => exact hidle (by simp [nextWork, hl, hw, hq])

/-! ## Statements about every step -/

/-- Settles O7: only a frame's acceptance shortens the list, and that needs BUSY clear. -/
theorem busyBlockAcceptsNoFrame : Obligations.BusyBlockAcceptsNoFrame := by
  intro s t hb h
  cases step_cases h with
  | reset line => rfl
  | message line waits decoded ran => exact (exec_keeps _ s t ran).frames
  | poll line waits polls ran => exact (dmaPoll_keeps _ s t ran).frames
  | command ready offered decoded ran => simp [ready.notBusy] at hb
  | refusal ready offered decoded => simp [ready.notBusy] at hb
  | idle line waits => rfl

/-- Settles O49: every meaning keeps FAULT where it is set, and accepting a frame does not touch
it. -/
theorem faultIsSticky : Obligations.FaultIsSticky := by
  intro s t hl hf h
  cases step_cases h with
  | reset line => simp [hl] at line
  | message line waits decoded ran => exact (exec_keeps _ s t ran).fault hf
  | poll line waits polls ran => exact (dmaPoll_keeps _ s t ran).fault hf
  | command ready offered decoded ran => exact (exec_keeps _ _ t ran).fault hf
  | refusal ready offered decoded => exact hf
  | idle line waits => exact hf

/-! ## ShutDown -/

/-- In ShutDown every command only responds: the queries answer, the others are in the wrong state
(44_session.md R211, R223). -/
theorem exec_of_shutDown {i : Instr} (hc : i.carrier = .command) {s : State}
    (hs : s.sess.state = .shutDown) : ∃ ws, exec i s = .next (respond ws s) := by
  by_cases hq : isQuery i = true
  · exact exec_of_isQuery hq s
  have hl : s.sess.live = false := by simp [Session.live, hs]
  refine ⟨(CmdError.usage .wrongState).response, ?_⟩
  change exec i s = .next (raise (.usage .wrongState) s)
  cases i with
  | init g alt ch base => simp [exec, execInit, hs]
  | cfgpat n f r z o => simp [exec, execCfgpat, Session.canConfigure, hs]
  | send payload => simp [exec, execSend, Session.canSend, hs]
  | wait => simp [exec, execWait, hl]
  | shutdown => simp [exec, execShutdown, hs]
  | dreset => simp [exec, execDreset, hl]
  | mbAlloc | mbLock | mbUnlock | mbFree => cases hc
  | _ => exact absurd rfl hq

/-- What a release under way needs, in a session that has not ended. -/
theorem ReleaseOk.live {s : State} {r : Releaser} (h : ReleaseOk s r) : s.sess.live = true := by
  cases r with
  | rollBack e => simp [Session.live, h.1]
  | shutdown n => exact Leaving.live h

/-- In ShutDown no command is under way: a poll belongs to Sending, an allocation to Configured, a
release to a session not yet ended. -/
theorem Inv.seq_idle_of_shutDown {s : State} (h : Inv s) (hs : s.sess.state = .shutDown) :
    s.seq = .idle := by
  have hl : s.sess.live = false := by simp [Session.live, hs]
  have hp := h.position
  unfold SeqOk at hp
  split at hp
  · assumption
  · obtain ⟨-, -, hsending⟩ := hp
    simp [hs] at hsending
  · obtain ⟨-, ⟨hconf, -⟩, -⟩ := hp
    simp [hs] at hconf
  · obtain ⟨-, ⟨hconf, -⟩, -⟩ := hp
    simp [hs] at hconf
  · obtain ⟨-, -, -, hr⟩ := hp
    exact absurd hr.live (by simp [hl])
  · obtain ⟨-, -, -, hr⟩ := hp
    exact absurd hr.live (by simp [hl])

/-- Settles O48: in ShutDown a step without reset accepts a frame or waits for one, and every
command only responds there. -/
theorem shutDownIsTerminal : Obligations.ShutDownIsTerminal := by
  intro s t hi hs h
  have hq := hi.seq_idle_of_shutDown hs
  have hw := (hi.atCommand hq).notWaiting
  cases step_cases h with
  | reset line => simp [hi.noReset] at line
  | message line waits decoded ran => simp [hw] at waits
  | poll line waits polls ran => simp [hq] at polls
  | command ready offered decoded ran =>
    obtain ⟨ws, hr⟩ := exec_of_shutDown (decodeFrame_carrier decoded) (s := accept _ _ s) hs
    rw [hr] at ran
    cases ran
    exact hs
  | refusal ready offered decoded => exact hs
  | idle line waits => exact hs

/-! ## Reset -/

theorem reset_windowsClosed : WindowsClosed State.reset := ⟨rfl, rfl, rfl, rfl⟩

/-- Settles O55: each value is the reset record's own. -/
theorem resetGivesInitialState : Obligations.ResetGivesInitialState :=
  ⟨rfl, rfl, rfl, rfl, reset_windowsClosed, rfl⟩

/-- After reset no block is held, no pattern is valid and nothing is sending. -/
theorem reset_settled : Settled State.reset.sess := by
  constructor <;> simp [State.reset, Session.reset]

/-- Settles O57: the platform is valid, nothing is in flight, no session is live and no command is
under way. -/
theorem resetMeetsTheInvariant : Obligations.ResetMeetsTheInvariant where
  config := by decide
  noReset := rfl
  canonical := List.Pairwise.nil
  inflight := nofun
  opened := nofun
  closed _ := reset_windowsClosed
  pattern := nofun
  position := ⟨rfl, reset_settled⟩
  busy := rfl

end Sys2Proof.Machine
end

section
/-! ## Every step keeps the invariant -/

namespace Sys2Proof.Machine

/-! ### The commands that may wait for the DMA -/

/-- SEND (44_session.md R219). -/
theorem Accepted.execSend {s : State} (h : Accepted s) (payload : List Byte) :
    ∃ t, Machine.execSend payload s = .next t ∧ Inv t := by
  unfold Machine.execSend
  split
  · exact ⟨_, rfl, h.respond _⟩
  rename_i hcan
  split
  · exact ⟨_, rfl, h.respond _⟩
  split
  · rename_i hs
    exact h.dmaPoll hs _
  · rename_i hs
    have hv : s.sess.state = .configured ∧ s.sess.patternValid = true := by
      simpa [Session.canSend, hs] using hcan
    exact h.startSend hv.2 payload

/-- WAIT (44_session.md R221). -/
theorem Accepted.execWait {s : State} (h : Accepted s) :
    ∃ t, Machine.execWait s = .next t ∧ Inv t := by
  unfold Machine.execWait
  split
  · exact ⟨_, rfl, h.respond _⟩
  split
  · rename_i hs
    exact h.dmaPoll hs _
  · exact ⟨_, rfl, h.respond _⟩

/-- SHUTDOWN (44_session.md R222): outside Sending nothing is in flight. -/
theorem Accepted.execShutdown {s : State} (h : Accepted s) :
    ∃ t, Machine.execShutdown s = .next t ∧ Inv t := by
  unfold Machine.execShutdown
  split
  · exact ⟨_, rfl, h.respond _⟩
  split
  · rename_i hs
    exact h.dmaPoll hs _
  · rename_i hs
    have hi : s.inflight = false := by simpa using mt h.steady.inflight hs
    exact h.leaveSession hi rfl nofun

/-- DRESET (43_dma_engine.md R198): INFLIGHT is cleared and the session is Configured. -/
theorem Accepted.execDreset {s : State} (h : Accepted s) :
    ∃ t, Machine.execDreset s = .next t ∧ Inv t := by
  unfold Machine.execDreset
  split
  · rename_i hl
    have hstate : (if s.sess.state = .sending then .configured else s.sess.state) =
        Phase.configured := by
      have hor : s.sess.state = .configured ∨ s.sess.state = .sending := by
        simpa [Session.live] using hl
      rcases hor with hs | hs <;> simp [hs]
    have hmoved := h.moved hl .configured (.inl rfl) false nofun
    rw [dmaReset, emit_of_ready (h.steady.opened hl) (a := .dmaReset) trivial, andThen_next]
    refine ⟨_, rfl, Accepted.respond (hmoved.of_eq ?_ ?_ ?_ ?_ ?_ ?_ ?_) _⟩ <;>
      simp [hstate, Action.inflightAfter]
  · exact ⟨_, rfl, h.respond _⟩

/-- Every command, once its frame is accepted, goes on and leaves the invariant. -/
theorem Accepted.exec {s : State} (h : Accepted s) {i : Instr} (hc : i.carrier = .command) :
    ∃ t, Machine.exec i s = .next t ∧ Inv t := by
  by_cases hq : isQuery i = true
  · obtain ⟨ws, e⟩ := exec_of_isQuery hq s
    exact ⟨_, e, h.respond ws⟩
  cases i with
  | init g alt ch base => exact h.execInit g alt ch base
  | cfgpat n f r z o => exact h.execCfgpat n f r z o
  | send payload => exact h.execSend payload
  | wait => exact h.execWait
  | shutdown => exact h.execShutdown
  | dreset => exact h.execDreset
  | mbAlloc | mbLock | mbUnlock | mbFree => cases hc
  | _ => exact absurd rfl hq

/-! ### The step, by the position of the micro-sequence -/

/-- While an exchange is outstanding a step runs its message (42_mailbox_allocator.md R172). -/
theorem step_of_awaits {s : State} {tag : Word} {args : List Word} {i : Instr}
    (hr : s.chan.resetLine = false) (ha : Awaits s tag args)
    (hd : decodeMessage s.cfg.mboxReqCode (request tag args s) = .ok i) : step s = exec i s := by
  obtain ⟨hw, hbuf⟩ := ha
  simp [step, nextWork, hr, hw, hbuf, hd]

/-- A command that waits for the DMA polls again. -/
theorem step_of_polling {s : State} {k : Poller} (hr : s.chan.resetLine = false)
    (hw : s.mbox.waiting = false) (hq : s.seq = .polling k) : step s = dmaPoll k s := by
  simp [step, nextWork, hr, hw, hq]

/-- With no frame offered a step waits for one (60_exceptions.md R259). -/
theorem step_of_no_frame {s : State} (h : Ready s) (hf : s.chan.frames = []) :
    step s = .next s := by
  obtain ⟨hr, hw, hq, hb⟩ := h
  simp [step, nextWork, nextFrame, hr, hw, hq, hf]

/-- A frame offered is accepted, and its command run (30_encoding.md R100). -/
theorem step_of_frame {s : State} {f : List Word} {rest : List (List Word)} {i : Instr}
    (h : Ready s) (hf : s.chan.frames = f :: rest) (hd : decodeFrame f = .ok i) :
    step s = exec i (accept f rest s) := by
  obtain ⟨hr, hw, hq, hb⟩ := h
  simp [step, nextWork, nextFrame, hr, hw, hq, hb, hf, hd]

/-- A frame that is no command is answered (30_encoding.md R106). -/
theorem step_of_bad_frame {s : State} {f : List Word} {rest : List (List Word)} {e : DecodeError}
    (h : Ready s) (hf : s.chan.frames = f :: rest) (hd : decodeFrame f = .error e) :
    step s = .next (raise (.usage (decodeCause e)) (accept f rest s)) := by
  obtain ⟨hr, hw, hq, hb⟩ := h
  simp [step, nextWork, nextFrame, hr, hw, hq, hb, hf, hd]

/-- With no command under way the block is ready for a frame. -/
theorem Inv.ready {s : State} (h : Inv s) (hq : s.seq = .idle) : Ready s :=
  ⟨h.noReset, (h.atCommand hq).notWaiting, hq, by rw [h.busy, hq]; rfl⟩

/-- Between commands a step keeps the invariant: it waits, answers a frame that is no command, or
runs a command from the state its frame was just accepted in. -/
theorem Inv.step_of_idle {s : State} (h : Inv s) (hq : s.seq = .idle) :
    ∃ t, step s = .next t ∧ Inv t := by
  have hready := h.ready hq
  cases hf : s.chan.frames with
  | nil => exact ⟨s, step_of_no_frame hready hf, h⟩
  | cons f rest =>
    have hacc := h.accepted hq f rest
    cases hd : decodeFrame f with
    | error e => exact ⟨_, step_of_bad_frame hready hf hd, hacc.respond _⟩
    | ok i =>
      rw [step_of_frame hready hf hd]
      exact hacc.exec (decodeFrame_carrier hd)

/-- Settles O58, by the position of the micro-sequence: a frame's command keeps the invariant, and
so does each way a command under way goes on, DmaWait's poll or the message it waits for. -/
theorem everyStepKeepsTheInvariant : Obligations.EveryStepKeepsTheInvariant := by
  intro s h
  have hp := h.position
  have hb := h.busy
  rw [SeqOk] at hp
  cases hq : s.seq with
  | idle => exact h.step_of_idle hq
  | polling k =>
    obtain ⟨hacc, hs⟩ := h.polling hq
    rw [step_of_polling h.noReset hacc.notWaiting hq]
    exact hacc.dmaPoll hs k
  | allocating j =>
    rw [hq] at hp hb
    obtain ⟨ha, hc, hm, hj⟩ := hp
    rw [step_of_awaits h.noReset ha (decodeMessage_alloc _ _ _ _)]
    exact h.toSteady.mbAlloc hq hc hm hj hb
  | locking j =>
    rw [hq] at hp hb
    obtain ⟨ha, hc, hm, hj⟩ := hp
    rw [step_of_awaits h.noReset ha (decodeMessage_lock _ _)]
    exact h.toSteady.mbLock hq hc hm hj hb
  | unlocking r =>
    rw [hq] at hp hb
    obtain ⟨ha, hr, hm, hrel⟩ := hp
    rw [step_of_awaits h.noReset ha (decodeMessage_unlock _ _)]
    exact ⟨_, rfl, h.toSteady.mbUnlock hq hr hm hrel hb⟩
  | freeing r =>
    rw [hq] at hp hb
    obtain ⟨ha, hr, hm, hrel⟩ := hp
    rw [step_of_awaits h.noReset ha (decodeMessage_free _ _)]
    exact ⟨_, rfl, h.toSteady.mbFree hq hr hm hrel hb⟩

end Sys2Proof.Machine
end

section
/-! ## The MemoryBlock's bytes

Word and bytes of one MemWrite; the instructions that leave every byte; and all that an instruction
can leave in memory, from which the canonical form follows once. -/

namespace Sys2Proof.Machine

/-! ### One word -/

/-- Byte `r` of a word is bits `[8r+7 : 8r]` (20_memory.md R71). -/
theorem byteOf_eq_extractLsb' (v : Word) (r : Nat) : byteOf v r = v.extractLsb' (8 * r) 8 := rfl

/-- Settles O21: MemWrite stores one word and changes nothing that says where the block lies. -/
theorem memoryBlockIsLittleEndian : Obligations.MemoryBlockIsLittleEndian := by
  intro s t addr v h
  obtain ⟨hholds, rfl⟩ := memWrite_eq_next h
  refine ⟨?_, fun r hr => ?_, fun c hc => ?_⟩
  · rw [memRead, if_pos (by exact hholds)]
    exact Memory.readWord_writeWord s.mem addr v
  · rw [← byteOf_eq_extractLsb']
    exact Memory.read_writeWord s.mem addr v hr
  · exact Memory.read_writeWord_other s.mem addr v hc

/-! ### What leaves memory -/

/-- A peripheral action leaves every byte of the block. -/
theorem emit_mem {a : Action} {s t : State} (h : emit a s = .next t) : t.mem = s.mem := by
  obtain ⟨rfl, -⟩ := emit_eq_next h
  exact perform_mem s a

theorem emitAll_mem {as : List Action} {s t : State} (h : emitAll as s = .next t) :
    t.mem = s.mem := by
  induction as generalizing s with
  | nil => cases h; rfl
  | cons a as ih =>
    obtain ⟨u, hu, ht⟩ := andThen_eq_next h
    exact (ih ht).trans (emit_mem hu)

theorem emitIf_mem {b : Bool} {a : Action} {s t : State}
    (h : (if b then emit a s else .next s) = .next t) : t.mem = s.mem := by
  split at h
  · exact emit_mem h
  · cases h; rfl

/-- SHUTDOWN after its wait writes registers and gives the block back (44_session.md R222). -/
theorem leaveSession_mem {n : Option CmdError} {s t : State} (h : leaveSession n s = .next t) :
    t.mem = s.mem := by
  obtain ⟨a, ha, h⟩ := andThen_eq_next h
  obtain ⟨b, hb, h⟩ := andThen_eq_next h
  cases h
  exact (startRelease_mem _ b).trans ((emitIf_mem hb).trans (emitIf_mem ha))

theorem afterWaitError_mem {k : Poller} {g : Word} {s t : State}
    (h : afterWaitError k g s = .next t) : t.mem = s.mem := by
  cases k with
  | wait | send => cases h; rfl
  | shutdown => exact leaveSession_mem h

/-- A poll leaves memory, unless it ends a SEND's wait: then the region is rewritten
(44_session.md R219). -/
theorem dmaPoll_mem {k : Poller} {s t : State} (h : dmaPoll k s = .next t) :
    t.mem = s.mem ∨
      ∃ payload u, k = .send payload ∧ u.mem = s.mem ∧ startSend payload u = .next t := by
  obtain ⟨a, ha, h⟩ := andThen_eq_next h
  have hmem := emit_mem ha
  dsimp only at h
  split at h
  · obtain ⟨b, hb, h⟩ := andThen_eq_next h
    exact .inl ((afterWaitError_mem h).trans ((emit_mem hb).trans hmem))
  split at h
  · cases k with
    | wait => cases h; exact .inl hmem
    | send payload => exact .inr ⟨payload, _, rfl, by exact hmem, h⟩
    | shutdown => exact .inl ((leaveSession_mem h).trans hmem)
  · cases h
    exact .inl hmem

/-- Of the polls only SEND's may write. -/
theorem dmaPoll_mem_of_ne_send {k : Poller} {s t : State} (h : dmaPoll k s = .next t)
    (hk : ∀ payload, k ≠ .send payload) : t.mem = s.mem := by
  rcases dmaPoll_mem h with hmem | ⟨payload, -, rfl, -⟩
  · exact hmem
  · exact absurd rfl (hk payload)

theorem execInit_mem {g alt ch base : Word} {s t : State} (h : execInit g alt ch base s = .next t) :
    t.mem = s.mem := by
  obtain ⟨-, -, hopen, -⟩ := openWindows_frame (initWindows s.cfg base) s
  unfold execInit at h
  cases h
  split
  · rfl
  split
  · rfl
  split
  · rfl
  split <;> simp_all

theorem execWait_mem {s t : State} (h : execWait s = .next t) : t.mem = s.mem := by
  unfold execWait at h
  split at h
  · cases h; rfl
  split at h
  · exact dmaPoll_mem_of_ne_send h nofun
  · cases h; rfl

theorem execShutdown_mem {s t : State} (h : execShutdown s = .next t) : t.mem = s.mem := by
  unfold execShutdown at h
  split at h
  · cases h; rfl
  split at h
  · exact dmaPoll_mem_of_ne_send h nofun
  · exact leaveSession_mem h

theorem execDreset_mem {s t : State} (h : execDreset s = .next t) : t.mem = s.mem := by
  unfold execDreset at h
  split at h
  · obtain ⟨u, hu, h⟩ := andThen_eq_next h
    cases h
    exact (emit_mem hu :)
  · cases h; rfl

/-- Settles O50: a query only responds; INIT, WAIT, SHUTDOWN and DRESET write registers, and no
release writes a byte. -/
theorem otherCommandsLeaveMemory : Obligations.OtherCommandsLeaveMemory := by
  intro i s t h hcfgpat hsend halloc hlock
  by_cases hq : isQuery i = true
  · obtain ⟨ws, e⟩ := exec_of_isQuery hq s
    cases e.symm.trans h
    rfl
  cases i with
  | init g alt ch base => exact execInit_mem h
  | wait => exact execWait_mem h
  | shutdown => exact execShutdown_mem h
  | dreset => exact execDreset_mem h
  | mbUnlock hd => cases h; exact mbUnlock_mem hd s
  | mbFree hd => cases h; exact mbFree_mem hd s
  | cfgpat n f r z o => exact absurd rfl (hcfgpat n f r z o)
  | send payload => exact absurd rfl (hsend payload)
  | mbAlloc a b c => exact absurd rfl (halloc a b c)
  | mbLock hd => exact absurd rfl (hlock hd)
  | _ => exact absurd rfl hq

/-! ### What an instruction can leave in memory -/

/-- All that one instruction can leave in a memory `m` (20_memory.md R69, R70, R78). -/
inductive MemoryAfter (m : Memory) : Memory → Prop
  /-- Every byte as before. -/
  | kept : MemoryAfter m m
  /-- SEND's region rewritten (44_session.md R219). -/
  | rewritten (a : Nat) (vs : List Word) : MemoryAfter m (m.writeWords a vs)
  /-- CFGPAT's fresh block, zero-filled, with its descriptor (44_session.md R217; log 11). -/
  | prepared (a : Nat) (vs : List Word) (b : Nat) (ws : List Word) :
    MemoryAfter m ((Memory.writeWords [] a vs).writeWords b ws)

theorem MemoryAfter.of_eq {m m' : Memory} (h : m' = m) : MemoryAfter m m' := h ▸ .kept

/-- Each of them has the canonical form, the last whatever was there before. -/
theorem MemoryAfter.wf {m m' : Memory} (h : MemoryAfter m m') (hm : m.wf) : m'.wf := by
  cases h with
  | kept => exact hm
  | rewritten a vs => exact Memory.writeWords_wf hm a vs
  | prepared a vs b ws =>
    exact Memory.writeWords_wf (Memory.writeWords_wf List.Pairwise.nil a vs) b ws

/-- The words CFGPAT writes once its block is mapped: zero-fill and descriptor. -/
theorem finishConfigure_mem {j : CfgJob} {s t : State} (h : finishConfigure j s = .next t) :
    ∃ a vs b ws, t.mem = (s.mem.writeWords a vs).writeWords b ws := by
  obtain ⟨u, hu, h⟩ := andThen_eq_next h
  obtain ⟨v, hv, h⟩ := andThen_eq_next h
  obtain ⟨w, hw, h⟩ := andThen_eq_next h
  cases h
  have hfill : u.mem = _ := congrArg State.mem (memWrites_eq_next hu)
  have hdesc : w.mem = _ := congrArg State.mem (memWrites_eq_next hw)
  exact ⟨_, _, _, _, hdesc.trans (by rw [emitAll_mem hv, hfill])⟩

theorem mapBlock_mem {j : CfgJob} {s t : State} (h : mapBlock j s = .next t) :
    MemoryAfter s.mem t.mem := by
  unfold mapBlock at h
  dsimp only at h
  split at h
  · cases h
    exact .of_eq (startRelease_mem _ _)
  · obtain ⟨a, vs, b, ws, e⟩ := finishConfigure_mem h
    rw [e]
    exact .prepared a vs b ws

theorem afterLock_mem {j : CfgJob} {a : MboxAnswer} {s t : State}
    (h : afterLock j a s = .next t) : MemoryAfter s.mem t.mem := by
  unfold afterLock at h
  split at h
  · cases h; exact .kept
  · cases h; exact .of_eq (startRelease_mem _ _)
  · split at h
    · cases h; exact .of_eq (startRelease_mem _ _)
    · exact (mapBlock_mem h :)

theorem mbLock_mem {hd : Word} {s t : State} (h : mbLock hd s = .next t) :
    MemoryAfter s.mem t.mem := by
  unfold mbLock at h
  dsimp only at h
  split at h
  · exact (afterLock_mem h :)
  · cases h; exact .kept

theorem afterAlloc_mem {j : CfgJob} {a : MboxAnswer} {s t : State}
    (h : afterAlloc j a s = .next t) : MemoryAfter s.mem t.mem := by
  unfold afterAlloc at h
  split at h
  · cases h; exact .kept
  · cases h; exact .of_eq (startRelease_mem _ _)
  · split at h
    · cases h; exact .of_eq (startRelease_mem _ _)
    · exact (mbLock_mem h :)

theorem mbAlloc_mem {size align flags : Word} {s t : State}
    (h : mbAlloc size align flags s = .next t) : MemoryAfter s.mem t.mem := by
  unfold mbAlloc at h
  dsimp only at h
  split at h
  · exact (afterAlloc_mem h :)
  · cases h; exact .kept

theorem execCfgpat_mem {n f r z o : Word} {s t : State} (h : execCfgpat n f r z o s = .next t) :
    MemoryAfter s.mem t.mem := by
  unfold execCfgpat at h
  split at h
  · cases h; exact .kept
  split at h
  · cases h; exact .kept
  split at h
  · cases h; exact .kept
  dsimp only at h
  split at h
  · cases h; exact .kept
  · exact (mbAlloc_mem h :)

/-- SEND after its wait (44_session.md R219). -/
theorem startSend_mem {payload : List Byte} {s t : State} (h : startSend payload s = .next t) :
    MemoryAfter s.mem t.mem := by
  obtain ⟨u, hu, h⟩ := andThen_eq_next h
  obtain ⟨v, hv, h⟩ := andThen_eq_next h
  cases h
  have hregion : u.mem = _ := congrArg State.mem (memWrites_eq_next hu)
  have hmem : v.mem = _ := (emitAll_mem hv).trans hregion
  exact hmem ▸ .rewritten _ _

theorem dmaPoll_memoryAfter {k : Poller} {s t : State} (h : dmaPoll k s = .next t) :
    MemoryAfter s.mem t.mem := by
  rcases dmaPoll_mem h with hmem | ⟨payload, u, -, hmem, hsend⟩
  · exact .of_eq hmem
  · exact hmem ▸ startSend_mem hsend

theorem execSend_mem {payload : List Byte} {s t : State} (h : execSend payload s = .next t) :
    MemoryAfter s.mem t.mem := by
  unfold execSend at h
  split at h
  · cases h; exact .kept
  split at h
  · cases h; exact .kept
  split at h
  · exact dmaPoll_memoryAfter h
  · exact startSend_mem h

/-- Any instruction, from any state. -/
theorem exec_mem {i : Instr} {s t : State} (h : exec i s = .next t) :
    MemoryAfter s.mem t.mem := by
  cases i with
  | cfgpat n f r z o => exact execCfgpat_mem h
  | send payload => exact execSend_mem h
  | mbAlloc size align flags => exact mbAlloc_mem h
  | mbLock hd => exact mbLock_mem h
  | _ => exact .of_eq (otherCommandsLeaveMemory _ s t h nofun nofun nofun nofun)

/-- Settles O60: a step runs one instruction or one poll, or touches no byte. -/
theorem everyStepKeepsMemoryCanonical : Obligations.EveryStepKeepsMemoryCanonical := by
  intro s t hm h
  cases step_cases h with
  | reset line => exact hm
  | message line waits decoded ran => exact (exec_mem ran).wf hm
  | poll line waits polls ran => exact (dmaPoll_memoryAfter ran).wf hm
  | command ready offered decoded ran => exact (exec_mem ran).wf hm
  | refusal ready offered decoded => exact hm
  | idle line waits => exact hm

end Sys2Proof.Machine
end

section
/-! ## The decoder's verdicts (30_encoding.md R102, R103, R106) -/

namespace Sys2Proof

/-- An opcode is an 8-bit number: its command word has no reserved bit set. -/
theorem opcodeInfo_lt {n : Nat} {p : Nat × Bool} (h : opcodeInfo n = some p) : n < 256 := by
  unfold opcodeInfo at h
  split at h <;> cases h <;> decide

/-- The numbers beside R102's fifteen are no opcodes. -/
theorem opcodeInfo_eq_none {n : Nat}
    (h : n ∉ [0x00, 0x01, 0x02, 0x03, 0x04, 0x05, 0x06, 0x10, 0x11, 0x20, 0x21, 0x22, 0x23,
      0x30, 0x31]) : opcodeInfo n = none := by
  unfold opcodeInfo
  split <;> simp at h ⊢

/-- The two opcodes with a payload are SEND and ENCODE (R103). -/
theorem opcodeInfo_payload {n k : Nat} (h : opcodeInfo n = some (k, true)) :
    n = 0x03 ∧ k = 1 ∨ n = 0x22 ∧ k = 4 := by
  unfold opcodeInfo at h
  split at h <;> cases h <;> simp

/-! `unfold` does not manage `buildCommand`'s match on number and words; its cases hold by
computation. -/

theorem buildCommand_send (len : Word) (ws : List Word) :
    buildCommand 0x03 (len :: ws) =
      if ws.length = ceilDiv len.toNat 4 then some (.send (unpackPayload len.toNat ws))
      else none := rfl

theorem buildCommand_encode (len z o w : Word) (ws : List Word) :
    buildCommand 0x22 (len :: z :: o :: w :: ws) =
      if ws.length = ceilDiv len.toNat 4 then some (.encode z o w (unpackPayload len.toNat ws))
      else none := rfl

/-- The number of words R103 gives decides whether they make a command. -/
theorem buildCommand_isSome {n k : Nat} {payload : Bool} (h : opcodeInfo n = some (k, payload))
    (ws : List Word) : (buildCommand n ws).isSome =
      (ws.length == (if payload then ceilDiv (ws.headD 0).toNat 4 else 0) + k) := by
  cases payload with
  | false =>
    unfold opcodeInfo at h
    split at h <;> cases h
    all_goals
      rcases ws with _ | ⟨a, _ | ⟨b, _ | ⟨c, _ | ⟨d, _ | ⟨e, _ | ⟨f, ws⟩⟩⟩⟩⟩⟩ <;> rfl
  | true =>
    obtain ⟨rfl, rfl⟩ | ⟨rfl, rfl⟩ := opcodeInfo_payload h
    · rcases ws with _ | ⟨len, ws⟩
      · rfl
      · rw [buildCommand_send, Bool.eq_iff_iff]
        simp
    · rcases ws with _ | ⟨len, _ | ⟨z, _ | ⟨o, _ | ⟨w, ws⟩⟩⟩⟩
      iterate 4 rfl
      · rw [buildCommand_encode, Bool.eq_iff_iff]
        simp

/-! R106's four verdicts, one after the other. -/

theorem decodeFrame_reservedBits {c : Word} (ws : List Word) (h : c.toNat / 256 ≠ 0) :
    decodeFrame (c :: ws) = .error .reservedBits := if_pos h

theorem decodeFrame_illegalOpcode {c : Word} (ws : List Word) (h : c.toNat / 256 = 0)
    (ho : opcodeInfo c.toNat = none) : decodeFrame (c :: ws) = .error .illegalOpcode := by
  simp [decodeFrame, h, ho]

theorem decodeFrame_badFrame {c : Word} {ws : List Word} {p : Nat × Bool}
    (ho : opcodeInfo c.toNat = some p) (hb : buildCommand c.toNat ws = none) :
    decodeFrame (c :: ws) = .error .badFrame := by
  have hr : c.toNat / 256 = 0 := Nat.div_eq_of_lt (opcodeInfo_lt ho)
  simp [decodeFrame, hr, ho, hb]

theorem decodeFrame_ok {c : Word} {ws : List Word} {p : Nat × Bool} {i : Instr}
    (ho : opcodeInfo c.toNat = some p) (hb : buildCommand c.toNat ws = some i) :
    decodeFrame (c :: ws) = .ok i := by
  have hr : c.toNat / 256 = 0 := Nat.div_eq_of_lt (opcodeInfo_lt ho)
  simp [decodeFrame, hr, ho, hb]

/-- A payload frame, whose length word and payload words are made from the payload (R103). -/
theorem decodeFrame_send {payload : List Byte} (h : payload.length < 4294967296) :
    decodeFrame (0x03 :: trunc32 payload.length :: packPayload payload) = .ok (.send payload) := by
  refine decodeFrame_ok rfl (Eq.trans (buildCommand_send _ _) ?_)
  rw [trunc32_toNat h, if_pos (packPayload_length payload), unpackPayload_packPayload]

theorem decodeFrame_encode {payload : List Byte} (z o w : Word)
    (h : payload.length < 4294967296) :
    decodeFrame (0x22 :: trunc32 payload.length :: z :: o :: w :: packPayload payload) =
      .ok (.encode z o w payload) := by
  refine decodeFrame_ok rfl (Eq.trans (buildCommand_encode _ _ _ _ _) ?_)
  rw [trunc32_toNat h, if_pos (packPayload_length payload), unpackPayload_packPayload]

/-! ## Statements about encodings -/

/-- Settles O2: a frame without a payload is rebuilt word by word, a payload is unpacked from its
own packing, and a message is read back as one a machine with this request code sends. -/
theorem decodeReadsBackEveryEncoding : Obligations.DecodeReadsBackEveryEncoding := by
  intro code i hwf
  obtain ⟨s, rfl⟩ : ∃ s : Machine.State, s.cfg.mboxReqCode = code :=
    ⟨{ Machine.State.reset with cfg := { Config.refcfg with mboxReqCode := code } }, rfl⟩
  cases i with
  | send payload => exact decodeFrame_send (of_decide_eq_true hwf)
  | encode z o w payload => exact decodeFrame_encode z o w (of_decide_eq_true hwf)
  | mbAlloc size align flags => exact Machine.decodeMessage_alloc s size align flags
  | mbLock h => exact Machine.decodeMessage_lock s h
  | mbUnlock h => exact Machine.decodeMessage_unlock s h
  | mbFree h => exact Machine.decodeMessage_free s h
  | _ => rfl

/-- Settles O1: the words are closed, and decoding them computes. -/
theorem wordsOfTheSpecDecode : Obligations.WordsOfTheSpecDecode :=
  ⟨rfl, rfl, rfl, rfl, rfl, rfl, rfl, rfl, rfl⟩

namespace Machine

/-- A UsageError raised for a frame just accepted: the status word of kind 5 and R245's cause; BUSY
is clear again. -/
theorem raise_accept_of_ready {s : State} (h : Ready s) (c : UsageCause) (f : List Word)
    (rest : List (List Word)) :
    raise (.usage c) (accept f rest s) = { s with
      chan := { s.chan with frames := rest, response := some [trunc32 (c.code * 256 + 5)] }
      trace := s.trace ++ [.command f, .response [trunc32 (c.code * 256 + 5)]] } := by
  obtain ⟨-, -, hq, hb⟩ := h
  apply State.eq_of_fields <;>
    simp [hq, hb, CmdError.response, CmdError.kind, CmdError.cause, CmdError.info, statusWord]

/-- Settles O3: the verdicts in R106's order, and the one response an illegal frame gets. -/
theorem illegalFramesAreRefusedInOrder : Obligations.IllegalFramesAreRefusedInOrder := by
  refine ⟨fun c ws => ⟨decodeFrame_reservedBits ws,
    fun hr ho => decodeFrame_illegalOpcode ws hr (opcodeInfo_eq_none ho),
    fun n payload ho => ⟨fun hl => ?_, fun hl => ?_⟩⟩, fun s f rest e hready hf hd => ?_⟩
  · have hnone : buildCommand c.toNat ws = none := by
      rw [← Option.isNone_iff_eq_none, ← Option.isSome_eq_false_iff, buildCommand_isSome ho,
        beq_eq_false_iff_ne, Nat.add_comm]
      exact hl
    exact decodeFrame_badFrame ho hnone
  · obtain ⟨i, hi⟩ : ∃ i, buildCommand c.toNat ws = some i := by
      rw [← Option.isSome_iff_exists, buildCommand_isSome ho, beq_iff_eq, Nat.add_comm]
      exact hl
    exact ⟨i, decodeFrame_ok ho hi⟩
  · refine ⟨(decodeCause e).code, _, step_of_bad_frame hready hf hd, ?_, ?_, ?_,
      raise_accept_of_ready hready _ f rest⟩ <;> rintro rfl <;> rfl

/-- Settles O4: accepting the frame is the state the statement writes out. -/
theorem stepRunsTheDecodedFrame : Obligations.StepRunsTheDecodedFrame :=
  fun _ _ _ _ hready hf hd => step_of_frame hready hf hd

end Machine

end Sys2Proof
end

section
/-! ## Where a command responds (30_encoding.md R100, R104)

Actions, windows, memory writes and exchanges never respond. A command that responds does so as the
last thing it does, so a step holds one response at most. -/

namespace Sys2Proof.Machine

theorem responses_append (es fs : List Event) :
    responses (es ++ fs) = responses es ++ responses fs := List.filterMap_append

/-- No response is added, to the history or on the channel. -/
structure Silent (s t : State) : Prop where
  history : responses t.trace = responses s.trace
  channel : t.chan.response = s.chan.response

theorem Silent.refl (s : State) : Silent s s := ⟨rfl, rfl⟩

theorem Silent.after {s t u : State} (g : Silent t u) (h : Silent s t) : Silent s u :=
  ⟨g.history.trans h.history, g.channel.trans h.channel⟩

/-- The usual way: other events are appended, and the channel stays. -/
theorem Silent.of_appended {s t : State} {es : List Event} (ht : t.trace = s.trace ++ es)
    (he : responses es = []) (hc : t.chan.response = s.chan.response) : Silent s t :=
  ⟨by rw [ht, responses_append, he, List.append_nil], hc⟩

/-- Silent, or silent up to a response with which it ends. -/
inductive RespondsAtMostOnce (s : State) : State → Prop
  | silent {t : State} (h : Silent s t) : RespondsAtMostOnce s t
  | responds {t : State} (h : Silent s t) (ws : List Word) : RespondsAtMostOnce s (respond ws t)

theorem RespondsAtMostOnce.after {s t u : State} (g : RespondsAtMostOnce t u) (h : Silent s t) :
    RespondsAtMostOnce s u := by
  cases g with
  | silent g => exact .silent (g.after h)
  | responds g ws => exact .responds (g.after h) ws

/-- A response with nothing before it. -/
theorem respond_once (ws : List Word) (s : State) : RespondsAtMostOnce s (respond ws s) :=
  .responds (.refl s) ws

/-- If `r` is a next state, it holds at most one response more than `s`, at its end. -/
def OnceIfNext (s : State) (r : Res) : Prop := ∀ t, r = .next t → RespondsAtMostOnce s t

theorem RespondsAtMostOnce.next {s t : State} (h : RespondsAtMostOnce s t) :
    OnceIfNext s (.next t) := by
  rintro _ ⟨⟩
  exact h

theorem OnceIfNext.after {s t : State} {r : Res} (g : OnceIfNext t r) (h : Silent s t) :
    OnceIfNext s r := fun u hu => (g u hu).after h

/-- A silent part before the rest. -/
theorem OnceIfNext.andThen {s : State} {r : Res} {k : State → Res}
    (h : ∀ t, r = .next t → Silent s t) (g : ∀ t, OnceIfNext t (k t)) :
    OnceIfNext s (andThen r k) := by
  intro u hu
  obtain ⟨t, ht, hk⟩ := andThen_eq_next hu
  exact (g t u hk).after (h t ht)

theorem respond_onceIfNext (ws : List Word) (s : State) : OnceIfNext s (.next (respond ws s)) :=
  (respond_once ws s).next

/-! ### Operations -/

theorem winRead_silent (n : WinName) (i : Nat) (s : State) : Silent s (winRead n i s) :=
  .of_appended rfl rfl rfl

theorem winWrite_silent (n : WinName) (i : Nat) (v : Word) (s : State) :
    Silent s (winWrite n i v s) :=
  .of_appended rfl rfl rfl

theorem performAccess_silent (s : State) (x : Access) : Silent s (performAccess s x) := by
  cases x with
  | read n i => exact winRead_silent n i s
  | write n i v => exact winWrite_silent n i v s
  | modify n i clear set => exact (winWrite_silent n i _ _).after (winRead_silent n i s)

theorem performAccesses_silent (xs : List Access) (s : State) :
    Silent s (xs.foldl performAccess s) := by
  induction xs generalizing s with
  | nil => exact .refl s
  | cons x xs ih => exact (ih _).after (performAccess_silent s x)

theorem perform_silent (a : Action) (s : State) : Silent s (perform a s) := by
  have hrecord : Silent s (record [.action a] s) := .of_appended rfl rfl rfl
  have haccesses := (performAccesses_silent (realise s.cfg a) _).after hrecord
  exact ⟨haccesses.history, haccesses.channel⟩

theorem emit_silent {a : Action} {s t : State} (h : emit a s = .next t) : Silent s t := by
  obtain ⟨rfl, -⟩ := emit_eq_next h
  exact perform_silent a s

theorem emitIf_silent {b : Bool} {a : Action} {s t : State}
    (h : (if b then emit a s else .next s) = .next t) : Silent s t := by
  split at h
  · exact emit_silent h
  · cases h; exact .refl _

theorem emitAll_silent {as : List Action} {s t : State} (h : emitAll as s = .next t) :
    Silent s t := by
  induction as generalizing s with
  | nil => cases h; exact .refl _
  | cons a as ih =>
    obtain ⟨u, hu, hrest⟩ := andThen_eq_next h
    exact (ih hrest).after (emit_silent hu)

theorem responses_memWriteEvents (addr : Nat) (vs : List Word) :
    responses (memWriteEvents addr vs) = [] := by
  induction vs generalizing addr with
  | nil => rfl
  | cons v vs ih => exact ih (addr + 4)

theorem memWrites_silent {addr : Nat} {vs : List Word} {s t : State}
    (h : memWrites addr vs s = .next t) : Silent s t := by
  rw [memWrites_eq_next h]
  exact .of_appended rfl (responses_memWriteEvents addr vs) rfl

theorem winOpen_silent (n : WinName) (phys : Word) (s : State) : Silent s (winOpen n phys s) :=
  .of_appended rfl rfl rfl

theorem winClose_silent (n : WinName) (s : State) : Silent s (winClose n s) := by
  unfold winClose
  split
  · exact .of_appended rfl rfl rfl
  · exact .refl s

theorem openWindows_silent (ws : List (WinName × Word)) (s : State) :
    Silent s (openWindows ws s).2 := by
  induction ws generalizing s with
  | nil => exact .refl s
  | cons w ws ih =>
    obtain ⟨n, phys⟩ := w
    have hrest := (ih _).after (winOpen_silent n phys s)
    unfold openWindows
    split
    · split
      · rename_i u hu
        simpa [hu] using hrest
      · rename_i refused u hu
        rw [hu] at hrest
        exact (winClose_silent n u).after hrest
    · exact winOpen_silent n phys s

theorem mboxCall_silent (m : List Word) (s : State) : Silent s (mboxCall m s) := by
  refine .of_appended rfl ?_ rfl
  cases mboxAnswer m s <;> rfl

/-! ### The release chain (42_mailbox_allocator.md R180, R181) -/

theorem finishShutdown_once (n : Option CmdError) (s : State) :
    RespondsAtMostOnce s (finishShutdown n s) := by
  have hclose := (winClose_silent .gpio _).after <| (winClose_silent .pwm _).after <|
    (winClose_silent .cm _).after (winClose_silent .dma s)
  unfold finishShutdown
  cases n with
  | none => exact (respond_once _ _).after ⟨hclose.history, hclose.channel⟩
  | some e => exact (respond_once _ _).after ⟨hclose.history, hclose.channel⟩

theorem finishRelease_once (r : Releaser) (s : State) :
    RespondsAtMostOnce s (finishRelease r s) := by
  cases r with
  | rollBack e => exact (respond_once _ _).after ⟨rfl, rfl⟩
  | shutdown n => exact finishShutdown_once n s

theorem mbFree_once (h : Word) (s : State) : RespondsAtMostOnce s (mbFree h s) := by
  rcases mbFree_cases h s with ⟨e, -⟩ | ⟨r, -, -, e⟩ <;> rw [e]
  · exact .silent (mboxCall_silent _ s)
  · exact (finishRelease_once _ _).after (mboxCall_silent _ s)

theorem mbUnlock_once (h : Word) (s : State) : RespondsAtMostOnce s (mbUnlock h s) := by
  rcases mbUnlock_cases h s with ⟨e, -⟩ | ⟨r, -, -, e⟩ <;> rw [e]
  · exact .silent (mboxCall_silent _ s)
  · have hcall := mboxCall_silent (request tagUnlock [h] s) s
    exact (mbFree_once _ _).after ⟨hcall.history, hcall.channel⟩

theorem startRelease_once (r : Releaser) (s : State) :
    RespondsAtMostOnce s (startRelease r s) := by
  unfold startRelease
  split
  · exact finishRelease_once r s
  · exact (mbFree_once _ _).after ⟨rfl, rfl⟩
  · exact (mbUnlock_once _ _).after ⟨rfl, rfl⟩
  · exact (mbUnlock_once _ _).after (.of_appended rfl rfl rfl)

/-! ### The allocation chain (R179) -/

theorem finishConfigure_once (j : CfgJob) (s : State) : OnceIfNext s (finishConfigure j s) :=
  .andThen (fun _ => memWrites_silent) fun _ =>
    .andThen (fun _ => emitAll_silent) fun _ =>
      .andThen (fun _ => memWrites_silent) fun _ =>
        (respond_onceIfNext _ _).after ⟨rfl, rfl⟩

theorem mapBlock_once (j : CfgJob) (s : State) : OnceIfNext s (mapBlock j s) := by
  unfold mapBlock
  dsimp only
  split
  · exact RespondsAtMostOnce.next <| (startRelease_once _ _).after <| .of_appended rfl rfl rfl
  · exact (finishConfigure_once j _).after (.of_appended rfl rfl rfl)

theorem afterLock_once (j : CfgJob) (a : MboxAnswer) (s : State) :
    OnceIfNext s (afterLock j a s) := by
  unfold afterLock
  split
  · exact (RespondsAtMostOnce.silent (.refl s)).next
  · exact (startRelease_once _ s).next
  · split
    · exact (startRelease_once _ s).next
    · exact (mapBlock_once j _).after ⟨rfl, rfl⟩

theorem mbLock_once (h : Word) (s : State) : OnceIfNext s (mbLock h s) := by
  unfold mbLock
  dsimp only
  split
  · exact (afterLock_once _ _ _).after (mboxCall_silent _ s)
  · exact (RespondsAtMostOnce.silent (mboxCall_silent _ s)).next

theorem afterAlloc_once (j : CfgJob) (a : MboxAnswer) (s : State) :
    OnceIfNext s (afterAlloc j a s) := by
  unfold afterAlloc
  split
  · exact (RespondsAtMostOnce.silent (.refl s)).next
  · exact (startRelease_once _ s).next
  · split
    · exact (startRelease_once _ s).next
    · exact (mbLock_once _ _).after ⟨rfl, rfl⟩

theorem mbAlloc_once (size align flags : Word) (s : State) :
    OnceIfNext s (mbAlloc size align flags s) := by
  unfold mbAlloc
  dsimp only
  split
  · exact (afterAlloc_once _ _ _).after (mboxCall_silent _ s)
  · exact (RespondsAtMostOnce.silent (mboxCall_silent _ s)).next

/-! ### DmaWait and what follows it (43_dma_engine.md R196) -/

theorem startSend_once (payload : List Byte) (s : State) : OnceIfNext s (startSend payload s) :=
  .andThen (fun _ => memWrites_silent) fun _ =>
    .andThen (fun _ => emitAll_silent) fun _ => (respond_onceIfNext _ _).after ⟨rfl, rfl⟩

theorem leaveSession_once (n : Option CmdError) (s : State) : OnceIfNext s (leaveSession n s) :=
  .andThen (fun _ => emitIf_silent) fun _ =>
    .andThen (fun _ => emitIf_silent) fun b => (startRelease_once _ b).next

theorem afterWait_once (k : Poller) (s : State) : OnceIfNext s (afterWait k s) := by
  cases k with
  | wait => exact (respond_onceIfNext _ _).after ⟨rfl, rfl⟩
  | send payload => exact (startSend_once payload _).after ⟨rfl, rfl⟩
  | shutdown => exact leaveSession_once none s

theorem afterWaitError_once (k : Poller) (debug : Word) (s : State) :
    OnceIfNext s (afterWaitError k debug s) := by
  cases k with
  | wait => exact respond_onceIfNext _ s
  | send payload => exact respond_onceIfNext _ s
  | shutdown => exact leaveSession_once _ s

theorem dmaPoll_once (k : Poller) (s : State) : OnceIfNext s (dmaPoll k s) := by
  refine .andThen (fun _ => emit_silent) fun a => ?_
  dsimp only
  split
  · exact .andThen (fun _ => emit_silent) fun b => (afterWaitError_once k _ _).after ⟨rfl, rfl⟩
  split
  · exact (afterWait_once k _).after ⟨rfl, rfl⟩
  · exact RespondsAtMostOnce.next <| .silent <| .of_appended rfl rfl rfl

/-! ### Commands -/

theorem execInit_once (g alt ch base : Word) (s : State) :
    OnceIfNext s (execInit g alt ch base s) := by
  have hopen := openWindows_silent (initWindows s.cfg base) s
  refine RespondsAtMostOnce.next ?_
  split
  · exact respond_once _ s
  split
  · exact respond_once _ s
  split
  · exact respond_once _ s
  split
  · rename_i refused t ht
    rw [ht] at hopen
    exact (respond_once _ _).after ⟨hopen.history, hopen.channel⟩
  · rename_i t ht
    rw [ht] at hopen
    have hpin := (perform_silent (.gpioAlt g alt) t).after hopen
    exact (respond_once _ _).after ⟨hpin.history, hpin.channel⟩

theorem execCfgpat_once (count freq delay zero one : Word) (s : State) :
    OnceIfNext s (execCfgpat count freq delay zero one s) := by
  unfold execCfgpat
  split
  · exact respond_onceIfNext _ s
  split
  · exact respond_onceIfNext _ s
  split
  · exact respond_onceIfNext _ s
  dsimp only
  split
  · exact respond_onceIfNext _ s
  · exact (mbAlloc_once _ _ _ _).after ⟨rfl, rfl⟩

theorem execSend_once (payload : List Byte) (s : State) :
    OnceIfNext s (execSend payload s) := by
  unfold execSend
  split
  · exact respond_onceIfNext _ s
  split
  · exact respond_onceIfNext _ s
  split
  · exact dmaPoll_once _ s
  · exact startSend_once payload s

theorem execWait_once (s : State) : OnceIfNext s (execWait s) := by
  unfold execWait
  split
  · exact respond_onceIfNext _ s
  split
  · exact dmaPoll_once _ s
  · exact respond_onceIfNext _ s

theorem execShutdown_once (s : State) : OnceIfNext s (execShutdown s) := by
  unfold execShutdown
  split
  · exact respond_onceIfNext _ s
  split
  · exact dmaPoll_once _ s
  · exact leaveSession_once none s

theorem execDreset_once (s : State) : OnceIfNext s (execDreset s) := by
  unfold execDreset
  split
  · exact .andThen (fun _ => emit_silent) fun _ => (respond_onceIfNext _ _).after ⟨rfl, rfl⟩
  · exact respond_onceIfNext _ s

/-- Any instruction, from any state. -/
theorem exec_once (i : Instr) (s : State) : OnceIfNext s (exec i s) := by
  by_cases hq : isQuery i = true
  · obtain ⟨ws, h⟩ := exec_of_isQuery hq s
    rw [h]
    exact respond_onceIfNext ws s
  cases i with
  | init g alt ch base => exact execInit_once g alt ch base s
  | cfgpat n f r z o => exact execCfgpat_once n f r z o s
  | send payload => exact execSend_once payload s
  | wait => exact execWait_once s
  | shutdown => exact execShutdown_once s
  | dreset => exact execDreset_once s
  | mbAlloc size align flags => exact mbAlloc_once size align flags s
  | mbLock h => exact mbLock_once h s
  | mbUnlock h => exact (mbUnlock_once h s).next
  | mbFree h => exact (mbFree_once h s).next
  | _ => exact absurd rfl hq

/-! ### Steps -/

theorem accept_silent (f : List Word) (rest : List (List Word)) (s : State) :
    Silent s (accept f rest s) := .of_appended rfl rfl rfl

/-- A step without reset. -/
theorem step_once {s : State} (hl : s.chan.resetLine = false) : OnceIfNext s (step s) := by
  intro t h
  cases step_cases h with
  | reset line => simp [hl] at line
  | message line waits decoded ran => exact exec_once _ s t ran
  | poll line waits polls ran => exact dmaPoll_once _ s t ran
  | command ready offered decoded ran => exact (exec_once _ _ t ran).after (accept_silent _ _ s)
  | refusal ready offered decoded => exact .responds (accept_silent _ _ s) _
  | idle line waits => exact .silent (.refl s)

/-- A step without reset only adds to the history. -/
theorem step_history {s t : State} (hl : s.chan.resetLine = false) (h : step s = .next t) :
    s.trace <+: t.trace := by
  cases step_cases h with
  | reset line => simp [hl] at line
  | message line waits decoded ran => exact (exec_keeps _ s t ran).history
  | poll line waits polls ran => exact (dmaPoll_keeps _ s t ran).history
  | command ready offered decoded ran =>
    exact (List.prefix_append _ _).trans (exec_keeps _ _ t ran).history
  | refusal ready offered decoded =>
    exact (List.prefix_append _ _).trans (respond_keeps _ (accept _ _ s)).history
  | idle line waits => exact List.prefix_rfl

/-- Settles O8: what a step adds to the history holds no response, or the one it ends with. -/
theorem oneResponseEndsACommand : Obligations.OneResponseEndsACommand := by
  intro s t hl h
  obtain ⟨es, hes⟩ := step_history hl h
  have hadded : responses t.trace = responses s.trace ++ responses es := by
    rw [← hes, responses_append]
  refine ⟨es, hes.symm, ?_⟩
  cases step_once hl t h with
  | silent hs => exact .inl ⟨by simpa [hs.history] using hadded, hs.channel⟩
  | responds hs ws =>
    rw [respond_trace, responses_append, hs.history] at hadded
    exact .inr ⟨ws, (List.append_cancel_left hadded).symm, rfl, rfl, rfl⟩

end Sys2Proof.Machine
end

section
/-! ## The clock divisor calculator (40_clock_divisor.md) -/

namespace Sys2Proof.Machine

/-- The search of R141 from scale `10 ^ i`, for rounds enough that the last quotient would be 0
(R144): it stops at the first power of ten from there on whose quotient fits. -/
theorem solveLoop_finds_least {m base desired : Nat} (hd : 1 ≤ desired) (fuel : Nat) :
    ∀ i, base < 10 ^ (i + fuel) →
      ∃ k, i ≤ k ∧ k ≤ i + fuel ∧
        (∀ j, i ≤ j → j < k → m < base / (desired * 10 ^ j)) ∧
        base / (desired * 10 ^ k) ≤ m ∧
        solveLoop fuel m base desired (10 ^ i) = (base / (desired * 10 ^ k), 10 ^ k) := by
  induction fuel with
  | zero =>
    intro i hb
    have hzero : base / (desired * 10 ^ i) = 0 :=
      Nat.div_eq_of_lt (hb.trans_le (Nat.le_mul_of_pos_left _ hd))
    exact ⟨i, le_rfl, le_rfl, fun j hij hji => absurd hji (by omega), by omega, rfl⟩
  | succ fuel ih =>
    intro i hb
    rw [solveLoop]
    split
    case isTrue hbig =>
      obtain ⟨k, hik, hk, hleast, hfits, hloop⟩ := ih (i + 1) (by rwa [Nat.add_right_comm])
      refine ⟨k, by omega, by omega, fun j hij hjk => ?_, hfits, hloop⟩
      rcases Nat.eq_or_lt_of_le hij with rfl | hlt
      · exact hbig
      · exact hleast j hlt hjk
    case isFalse hsmall =>
      exact ⟨i, le_rfl, by omega, fun j hij hji => absurd hji (by omega), by omega, rfl⟩

/-- `solve` for operands within R144's bound: the least fitting power of ten, its quotient raised
to 1. -/
theorem solve_finds_least {m base desired : Nat} (hd : 1 ≤ desired) (hb : base < 10 ^ 10) :
    ∃ k ≤ 10, (∀ j < k, m < base / (desired * 10 ^ j)) ∧ base / (desired * 10 ^ k) ≤ m ∧
      solve m base desired = (max 1 (base / (desired * 10 ^ k)), 10 ^ k) := by
  obtain ⟨k, -, hk, hleast, hfits, hloop⟩ := solveLoop_finds_least (m := m) hd 10 0 hb
  refine ⟨k, by omega, fun j => hleast j (by omega), hfits, ?_⟩
  rw [pow_zero] at hloop
  simp only [solve, hloop]
  generalize base / (desired * 10 ^ k) = quotient
  congr 1
  split <;> omega

theorem solveUnscaled_eq_clamp (m base desired : Nat) :
    solveUnscaled m base desired = max 1 (min m (base / desired)) := by
  simp only [solveUnscaled]
  split_ifs <;> omega

theorem exec_solve_of_ne {desired : Word} (h : desired ≠ 0) (base : Word) (s : State) :
    exec (.solve base desired) s =
      let r := solve s.cfg.maxDivisor base.toNat desired.toNat
      .next (respond [0, trunc32 r.1, trunc32 r.2, trunc32 (r.2 / 2 ^ 32)] s) := by
  simp only [exec, execSolve, if_neg h]
  rfl

/-- The divisor SOLVEU answers fits a word: it is at most 1 or the quotient. -/
theorem exec_solveu_of_ne {desired : Word} (h : desired ≠ 0) (base : Word) (s : State) :
    ∃ d : Word, exec (.solveu base desired) s = .next (respond [0, d] s) ∧
      d.toNat = solveUnscaled s.cfg.maxDivisor base.toNat desired.toNat := by
  refine ⟨trunc32 (solveUnscaled s.cfg.maxDivisor base.toNat desired.toNat), ?_, ?_⟩
  · simp only [exec, execSolveu, if_neg h]
    rfl
  · have hq := Nat.div_le_self base.toNat desired.toNat
    rw [solveUnscaled_eq_clamp]
    exact trunc32_toNat (by omega)

/-- Settles O9: by the least power of ten the search stops at. -/
theorem solveFindsSmallestScale : Obligations.SolveFindsSmallestScale := by
  intro s base desired
  refine ⟨?_, fun h => ?_⟩
  · rintro rfl
    rfl
  obtain ⟨k, hk, hleast, hfits, hsolve⟩ :=
    solve_finds_least (m := s.cfg.maxDivisor) (base := base.toNat)
      (BitVec.toNat_pos_of_ne_zero h) (by omega)
  refine ⟨k, hk, hleast, hfits, ?_⟩
  rw [exec_solve_of_ne h, hsolve]

/-- Settles O10: SOLVE's quotient fits where the search stops (O9), SOLVEU's is clamped. -/
theorem divisorsStayInRange : Obligations.DivisorsStayInRange := by
  intro s base desired hm h
  constructor
  · obtain ⟨k, -, -, hfits, hsolve⟩ := (solveFindsSmallestScale s base desired).2 h
    have hq := Nat.div_le_self base.toNat (desired.toNat * 10 ^ k)
    refine ⟨_, _, _, hsolve, ?_⟩
    rw [trunc32_toNat (by omega)]
    omega
  · obtain ⟨d, hd, hval⟩ := exec_solveu_of_ne h base s
    exact ⟨d, hd, hval ▸ solveUnscaled_range hm base.toNat desired.toNat⟩

/-- Settles O11: the quotient clamped from above and below. -/
theorem solveuClampsQuotient : Obligations.SolveuClampsQuotient := by
  intro s base desired hm
  refine ⟨?_, fun h => ?_⟩
  · rintro rfl
    rfl
  obtain ⟨d, hd, hval⟩ := exec_solveu_of_ne h base s
  rw [solveUnscaled_eq_clamp] at hval
  exact ⟨d, hd, by omega, by omega, by omega⟩

end Sys2Proof.Machine
end

section
/-! ## The pure commands (40_clock_divisor.md R146, 41_pattern_encoder.md R165, 43_dma_engine.md
R192, 44_session.md R216) -/

namespace Sys2Proof.Machine

/-- The words an outcome responds with; none where it responds nothing. -/
def responseWords : Res → List Word
  | .next t => t.chan.response.getD []
  | _ => []

/-- What the block answers to an instruction right after reset, under configuration `c`. -/
def replyAfterReset (c : Config) (i : Instr) : List Word :=
  responseWords (exec i { State.reset with cfg := c })

/-- Settles O23: a pure command's conditions read its operands and the configuration alone, so every
state gives the reply of the reset state. -/
theorem pureCommandsReadNoRegister : Obligations.PureCommandsReadNoRegister := by
  intro c i hi
  refine ⟨replyAfterReset c i, ?_⟩
  rintro s rfl
  unfold replyAfterReset
  rcases hi with ⟨base, desired, rfl⟩ | ⟨base, desired, rfl⟩ | ⟨percent, width, rfl⟩ |
    ⟨zero, one, rfl⟩ | ⟨zero, one, width, payload, rfl⟩ | ⟨count, freq, delay, width, rfl⟩ |
    ⟨source, dest, length, rfl⟩
  · dsimp only [exec, execSolve]
    split <;> rfl
  · dsimp only [exec, execSolveu]
    split <;> rfl
  · dsimp only [exec, execRepr]
    split <;> rfl
  · dsimp only [exec, execChwidth]
    split
    · split <;> rfl
    · rfl
  · dsimp only [exec, execEncode]
    split <;> rfl
  · dsimp only [exec, execBufsize]
    split <;> rfl
  · rfl

end Sys2Proof.Machine
end

section
/-! ## The pattern encoder (41_pattern_encoder.md) -/

namespace Sys2Proof.Machine

/-! ### Codes and their widths (R151, R153) -/

/-- A percentage never asks for more ones than the width holds. -/
theorem onesCount_le {p w : Nat} (hp : p ≤ 100) (hw : 1 ≤ w) : onesCount p w ≤ w := by
  have := Nat.mul_le_mul_right w hp
  unfold onesCount
  omega

/-- The ones of a code are its top `n` bits (30_encoding.md R125). -/
theorem testBit_patternCode {n w : Nat} (h : n ≤ w) (i : Nat) :
    (patternCode n w).testBit i = (decide (i < w) && decide (w ≤ i + n)) := by
  rw [patternCode, Nat.testBit_mul_two_pow, Nat.testBit_two_pow_sub_one, Bool.eq_iff_iff]
  simp only [Bool.and_eq_true, decide_eq_true_eq]
  omega

theorem searchWidth_eq_none {z o : Nat} (count : Nat) :
    ∀ w, (∀ v, w ≤ v → v < w + count → representation z v = representation o v) →
      searchWidth z o w count = none := by
  induction count with
  | zero => exact fun _ _ => rfl
  | succ n ih =>
    intro w hsame
    rw [searchWidth, if_neg (not_not.mpr (hsame w le_rfl (by omega)))]
    exact ih (w + 1) fun v hv hlt => hsame v (by omega) (by omega)

theorem searchWidth_eq_first {z o w : Nat} (hdiffer : representation z w ≠ representation o w)
    (count : Nat) :
    ∀ u, u ≤ w → w < u + count →
      (∀ v, u ≤ v → v < w → representation z v = representation o v) →
      searchWidth z o u count = some
        { zeroCode := representation z w, oneCode := representation o w, widthBits := w } := by
  induction count with
  | zero => exact fun u hu hlt => absurd hlt (by omega)
  | succ n ih =>
    intro u hu hlt hsame
    rcases Nat.eq_or_lt_of_le hu with rfl | huw
    · rw [searchWidth, if_pos hdiffer]
    · rw [searchWidth, if_neg (not_not.mpr (hsame u le_rfl huw))]
      exact ih (u + 1) huw (by omega) fun v hv => hsame v (by omega)

/-- Settles O12: the top bits of `patternCode` survive the cut to a word, as the width is at most
16. -/
theorem reprSetsTopBits : Obligations.ReprSetsTopBits := by
  intro s percent width
  refine ⟨fun hp h3 h16 => ⟨trunc32 (representation percent.toNat width.toNat), ?_, fun i => ?_⟩,
    fun hbad => ?_⟩
  · have hok : (percentOk percent && widthOk width) = true := by
      simp [percentOk, widthOk, hp, h3, h16]
    simp only [exec, execRepr, if_pos hok]
    rfl
  · rw [trunc32, BitVec.getLsbD_ofNat, representation,
      testBit_patternCode (onesCount_le hp (by omega)), onesCount, Bool.eq_iff_iff]
    simp only [Bool.and_eq_true, decide_eq_true_eq]
    omega
  · have hno : ¬ (percentOk percent && widthOk width) = true := by
      simp only [percentOk, widthOk, Bool.and_eq_true, decide_eq_true_eq]
      omega
    simp only [exec, execRepr, if_neg hno]
    rfl

theorem exec_chwidth_of_ok {zero one : Word} (hz : zero.toNat ≤ 100) (ho : one.toNat ≤ 100)
    (s : State) :
    exec (.chwidth zero one) s = .next ((chooseWidth zero.toNat one.toNat).elim (raise .noWidth s)
      fun p => respondOk [trunc32 p.zeroCode, trunc32 p.oneCode, trunc32 p.widthBits] s) := by
  have hok : (percentOk zero && percentOk one) = true := by simp [percentOk, hz, ho]
  simp only [exec, execChwidth, if_pos hok]
  cases chooseWidth zero.toNat one.toNat <;> rfl

/-- Settles O13: the search of R153 finds nothing where all fourteen widths agree, else the first
that differs. -/
theorem chwidthTakesFirstDistinguishingWidth :
    Obligations.ChwidthTakesFirstDistinguishingWidth := by
  intro s zero one
  refine ⟨fun hbad => ?_, fun hz ho hsame => ?_, fun w hz ho h3 h16 hdiffer hsame => ?_⟩
  · have hno : ¬ (percentOk zero && percentOk one) = true := by
      simp only [percentOk, Bool.and_eq_true, decide_eq_true_eq]
      omega
    simp only [exec, execChwidth, if_neg hno]
    rfl
  · have hnone : chooseWidth zero.toNat one.toNat = none :=
      searchWidth_eq_none 14 3 fun v hv hlt => hsame v hv (by omega)
    rw [exec_chwidth_of_ok hz ho, hnone]
    rfl
  · have hfirst := searchWidth_eq_first hdiffer 14 3 h3 (by omega) hsame
    rw [exec_chwidth_of_ok hz ho, chooseWidth, hfirst]
    rfl

end Sys2Proof.Machine
end

section
/-! ## The bit stream and its words (41_pattern_encoder.md R156 to R160) -/

namespace Sys2Proof.Machine

/-! ### The number a list of bits spells -/

theorem bitsValue_concat (bits : List Bool) (b : Bool) :
    bitsValue (bits ++ [b]) = Nat.bit b (bitsValue bits) := by
  simp only [bitsValue, List.foldl_append, List.foldl_cons, List.foldl_nil]
  cases b <;> rfl

theorem testBit_bitsValue (bits : List Bool) :
    ∀ i, (bitsValue bits).testBit i = bits.reverse.getD i false := by
  induction bits using List.reverseRecOn with
  | nil => simp [bitsValue]
  | append_singleton bits b ih =>
    intro i
    rw [bitsValue_concat, List.reverse_concat]
    cases i with
    | zero => exact Nat.testBit_bit_zero b _
    | succ i => rw [Nat.testBit_bit_succ, ih, List.getD_cons_succ]

/-- The first bit of `n` is the most significant one. -/
theorem testBit_bitsValue_of_length {bits : List Bool} {n i : Nat} (h : bits.length = n)
    (hi : i < n) : (bitsValue bits).testBit i = bits.getD (n - 1 - i) false := by
  subst h
  rw [testBit_bitsValue, List.getD_eq_getElem?_getD, List.getElem?_reverse hi,
    List.getD_eq_getElem?_getD]

@[simp] theorem codeBits_length (w c : Nat) : (codeBits w c).length = w := by simp [codeBits]

theorem codeBits_getD {w k : Nat} (h : k < w) (c : Nat) :
    (codeBits w c).getD k false = c.testBit (w - 1 - k) := by
  simp [codeBits, h]

theorem bitsValue_codeBits {w c : Nat} (h : c < 2 ^ w) : bitsValue (codeBits w c) = c := by
  apply Nat.eq_of_testBit_eq
  intro i
  rcases Nat.lt_or_ge i w with hi | hi
  · rw [testBit_bitsValue_of_length (codeBits_length w c) hi, codeBits_getD (by omega)]
    congr 1
    omega
  · rw [testBit_bitsValue, List.getD_eq_default _ _ (by simpa using hi),
      Nat.testBit_lt_two_pow (h.trans_le (Nat.pow_le_pow_right (by decide) hi))]

theorem codeBits_inj {w c d : Nat} (hc : c < 2 ^ w) (hd : d < 2 ^ w) :
    codeBits w c = codeBits w d ↔ c = d :=
  ⟨fun h => by rw [← bitsValue_codeBits hc, h, bitsValue_codeBits hd], fun h => h ▸ rfl⟩

/-- A byte's bits are those of a code of width 8. -/
theorem byteBits_eq_codeBits (b : Byte) : byteBits b = codeBits 8 b.toNat := rfl

@[simp] theorem byteBits_length (b : Byte) : (byteBits b).length = 8 :=
  codeBits_length 8 b.toNat

/-! ### Pieces of one length laid end to end -/

theorem length_flatMap_pieces {α β : Type} {f : α → List β} {w : Nat}
    (hf : ∀ x, (f x).length = w) (l : List α) : (l.flatMap f).length = l.length * w := by
  simp [List.length_flatMap, hf]

theorem getD_flatMap_pieces {α β : Type} {f : α → List β} {w : Nat}
    (hf : ∀ x, (f x).length = w) (e : α) (d : β) (l : List α) :
    ∀ t < l.length * w, (l.flatMap f).getD t d = (f (l.getD (t / w) e)).getD (t % w) d := by
  induction l with
  | nil => intro t ht; simp at ht
  | cons x l ih =>
    intro t ht
    rw [List.flatMap_cons]
    rcases Nat.lt_or_ge t w with hlt | hge
    · rw [List.getD_append _ _ _ _ (by rwa [hf]), Nat.div_eq_of_lt hlt, Nat.mod_eq_of_lt hlt,
        List.getD_cons_zero]
    · obtain ⟨u, rfl⟩ := Nat.exists_eq_add_of_le' hge
      have hw : 0 < w := by
        rcases Nat.eq_zero_or_pos w with rfl | hw
        · simp at ht
        · exact hw
      rw [List.length_cons, Nat.succ_mul] at ht
      rw [List.getD_append_right _ _ _ _ (by rwa [hf]), hf, Nat.add_sub_cancel,
        Nat.add_div_right _ hw, Nat.add_mod_right, List.getD_cons_succ]
      exact ih u (by omega)

/-! ### The stream (R156) -/

theorem bitStream_length (bytes : List Byte) (p : BitPattern) :
    (bitStream bytes p).length = bytes.length * 8 * p.widthBits := by
  rw [bitStream, length_flatMap_pieces (fun _ => codeBits_length _ _),
    length_flatMap_pieces byteBits_length]

/-- Stream bit `t` is bit `w - 1 - t mod w` of the code that bit `t div w` of the bytes selects. -/
theorem bitStream_getD {bytes : List Byte} {p : BitPattern} {t : Nat}
    (h : t < bytes.length * 8 * p.widthBits) :
    (bitStream bytes p).getD t false =
      (if (bytes.getD (t / (8 * p.widthBits)) 0).getLsbD (7 - t / p.widthBits % 8) then p.oneCode
        else p.zeroCode).testBit (p.widthBits - 1 - t % p.widthBits) := by
  have hw : 0 < p.widthBits := Nat.pos_of_mul_pos_left (Nat.zero_lt_of_lt h)
  have hbit : t / p.widthBits < bytes.length * 8 := (Nat.div_lt_iff_lt_mul hw).mpr h
  have hmod := Nat.mod_lt t hw
  rw [bitStream, getD_flatMap_pieces (fun _ => codeBits_length _ _) false false _ t
      (by rwa [length_flatMap_pieces byteBits_length]),
    getD_flatMap_pieces byteBits_length 0 false _ _ hbit, codeBits_getD hmod,
    byteBits_eq_codeBits, codeBits_getD (Nat.mod_lt _ (by decide)), Nat.div_div_eq_div_mul,
    Nat.mul_comm p.widthBits 8]
  rfl

/-! ### The words (R157) -/

/-- Continuing a list of bits with zeros changes no bit of it. -/
theorem getD_append_replicate (bits : List Bool) (n t : Nat) :
    (bits ++ List.replicate n false).getD t false = bits.getD t false := by
  rcases Nat.lt_or_ge t bits.length with h | h
  · exact List.getD_append _ _ _ _ h
  · rw [List.getD_append_right _ _ _ _ h, List.getD_eq_default _ _ h,
      List.getD_eq_getElem?_getD, List.getElem?_replicate]
    split <;> rfl

theorem wordOfBits_getLsbD {t : Nat} (h : t < 32) (bits : List Bool) :
    (wordOfBits bits).getLsbD (31 - t) = bits.getD t false := by
  have hlen : ((bits ++ List.replicate 32 false).take 32).length = 32 := by simp
  rw [wordOfBits, trunc32, BitVec.getLsbD_ofNat, testBit_bitsValue_of_length hlen (by omega)]
  have hindex : 32 - 1 - (31 - t) = t := by omega
  rw [hindex, List.getD_eq_getElem?_getD, List.getElem?_take_of_lt h, ← List.getD_eq_getElem?_getD,
    getD_append_replicate]
  simp [show 31 - t < 32 by omega]

theorem streamOfWords_getD {ws : List Word} {t : Nat} (h : t < 32 * ws.length) :
    (streamOfWords ws).getD t false = (ws.getD (t / 32) 0).getLsbD (31 - t % 32) := by
  rw [streamOfWords, getD_flatMap_pieces (w := 32) (by simp) 0 false _ t (by omega)]
  simp [Nat.mod_lt]

/-- Words packed from a stream read back as the stream continued with zeros. -/
theorem streamOfWords_packWords (m : Nat) :
    ∀ bits, streamOfWords (packWords m bits) =
      (List.range (32 * m)).map fun t => bits.getD t false := by
  induction m with
  | zero => exact fun _ => rfl
  | succ m ih =>
    intro bits
    rw [packWords, streamOfWords, List.flatMap_cons, ← streamOfWords, ih, Nat.mul_succ,
      Nat.add_comm, List.range_add, List.map_append, List.map_map]
    congr 1
    · refine List.map_congr_left fun t ht => ?_
      have ht := List.mem_range.mp ht
      rw [wordOfBits_getLsbD ht]
      simp [ht]
    · exact List.map_congr_left fun t _ => by simp

/-- The emitted words hold the whole stream, the last of them in part at least. -/
theorem encodeWords_hold_bitStream (bytes : List Byte) (p : BitPattern) :
    (bitStream bytes p).length ≤ 32 * (encodeWords bytes p).length ∧
      32 * (encodeWords bytes p).length < (bitStream bytes p).length + 32 := by
  rw [bitStream_length, encodeWords_length, encodedLength, ceilDiv]
  omega

/-- Bit `31 - t mod 32` of emitted word `t div 32` is stream bit `t`, 0 beyond the stream. -/
theorem encodeWords_getLsbD {bytes : List Byte} {p : BitPattern} {t : Nat}
    (h : t < 32 * (encodeWords bytes p).length) :
    ((encodeWords bytes p).getD (t / 32) 0).getLsbD (31 - t % 32) =
      (bitStream bytes p).getD t false := by
  rw [← streamOfWords_getD h, encodeWords, streamOfWords_packWords]
  rw [encodeWords, packWords_length] at h
  simp [h]

theorem streamOfWords_encodeWords (bytes : List Byte) (p : BitPattern) :
    ∃ n, streamOfWords (encodeWords bytes p) = bitStream bytes p ++ List.replicate n false := by
  obtain ⟨n, hn⟩ := Nat.exists_eq_add_of_le (encodeWords_hold_bitStream bytes p).1
  rw [encodeWords_length] at hn
  refine ⟨n, ?_⟩
  rw [encodeWords, streamOfWords_packWords, hn]
  refine List.ext_getElem (by simp) fun t ht _ => ?_
  rw [List.getElem_map, List.getElem_range, ← getD_append_replicate _ n]
  exact List.getD_eq_getElem _ _ _

/-- The pattern ENCODE's operands name. -/
def operandPattern (z o width : Word) : BitPattern :=
  { zeroCode := z.toNat, oneCode := o.toNat, widthBits := width.toNat }

/-- The code a bit selects is the operand it selects. -/
theorem operandPattern_testBit (z o width : Word) (bit : Bool) (k : Nat) :
    (if bit then (operandPattern z o width).oneCode
      else (operandPattern z o width).zeroCode).testBit k = (if bit then o else z).getLsbD k := by
  cases bit <;> rfl

theorem exec_encode_of_ok {z o width : Word} (h : encodeOk z o width = true) (payload : List Byte)
    (s : State) :
    exec (.encode z o width payload) s =
      .next (respond (0 :: encodeWords payload (operandPattern z o width)) s) := by
  simp only [exec, execEncode, if_pos h]
  rfl

theorem exec_encode_of_not_ok {z o width : Word} (h : ¬ encodeOk z o width = true)
    (payload : List Byte) (s : State) :
    exec (.encode z o width payload) s = .next (respond [0x00000405] s) := by
  simp only [exec, execEncode, if_neg h]
  rfl

/-- Settles O14: every bit of the words is a stream bit, and the stream ends at `8·L·w`. -/
theorem encodeLaysStreamIntoWords : Obligations.EncodeLaysStreamIntoWords := by
  intro s z o width payload
  refine ⟨fun hbad => exec_encode_of_not_ok ?_ payload s, fun h3 h16 hz ho hne => ?_⟩
  · simp only [← BitVec.toNat_inj] at hbad
    simp only [encodeOk, widthOk, Bool.and_eq_true, decide_eq_true_eq, ne_eq, ← BitVec.toNat_inj]
    omega
  have hok : encodeOk z o width = true := by simp [encodeOk, widthOk, h3, h16, hz, ho, hne]
  have hstream := bitStream_length payload (operandPattern z o width)
  have hhold := (encodeWords_hold_bitStream payload (operandPattern z o width)).1
  refine ⟨_, exec_encode_of_ok hok payload s, encodeWords_length _ _, fun t ht => ?_,
    fun t ht hlt => ?_⟩
  · rw [encodeWords_getLsbD ((ht.trans_eq hstream.symm).trans_le hhold), bitStream_getD ht]
    exact operandPattern_testBit z o width _ _
  · rw [encodeWords_getLsbD hlt, List.getD_eq_default _ _ (hstream.trans_le ht)]

/-! ### Decoding (R160) -/

theorem groupBit_codeBits {p : BitPattern} (hz : p.zeroCode < 2 ^ p.widthBits)
    (ho : p.oneCode < 2 ^ p.widthBits) (hne : p.zeroCode ≠ p.oneCode) (b : Bool) :
    groupBit p (codeBits p.widthBits (if b then p.oneCode else p.zeroCode)) = some b := by
  cases b <;> simp [groupBit, codeBits_inj hz ho, hne]

theorem groupsOf_codes {p : BitPattern} (hz : p.zeroCode < 2 ^ p.widthBits)
    (ho : p.oneCode < 2 ^ p.widthBits) (hne : p.zeroCode ≠ p.oneCode) (bits rest : List Bool) :
    groupsOf p bits.length
      (bits.flatMap (fun b => codeBits p.widthBits (if b then p.oneCode else p.zeroCode)) ++ rest) =
        some bits := by
  induction bits with
  | nil => rfl
  | cons b bits ih =>
    rw [List.length_cons, groupsOf, List.flatMap_cons, List.append_assoc,
      List.take_left' (codeBits_length _ _), List.drop_left' (codeBits_length _ _),
      groupBit_codeBits hz ho hne, ih]

theorem bytesOfBits_byteBits (bytes : List Byte) :
    bytesOfBits bytes.length (bytes.flatMap byteBits) = bytes := by
  induction bytes with
  | nil => rfl
  | cons b bytes ih =>
    rw [List.length_cons, bytesOfBits, List.flatMap_cons, List.take_left' (byteBits_length b),
      List.drop_left' (byteBits_length b), ih, byteBits_eq_codeBits, bitsValue_codeBits b.isLt,
      BitVec.ofNat_toNat, BitVec.setWidth_eq]

/-- Settles O15: the emitted words read back as the stream, whose groups are matched one by one. -/
theorem encodedBytesDecodeBack : Obligations.EncodedBytesDecodeBack := by
  intro payload p _ hz ho hne
  obtain ⟨n, hstream⟩ := streamOfWords_encodeWords payload p
  have hbits : (payload.flatMap byteBits).length = 8 * payload.length := by
    rw [length_flatMap_pieces byteBits_length, Nat.mul_comm]
  rw [decodeWords, hstream, bitStream, ← hbits, groupsOf_codes hz ho hne, Option.map_some,
    bytesOfBits_byteBits]

/-! ### Byte placement (R158) -/

theorem byteOf_getLsbD {w : Word} {r i : Nat} (hi : i < 8) :
    (byteOf w r).getLsbD i = w.getLsbD (8 * r + i) := by
  rw [byteOf_eq_extractLsb']
  simp [hi]

/-- Settles O16: byte `3 - b mod 4` of word `b div 4` holds stream bits `8b` to `8b + 7`. -/
theorem packedBytesAreReversedInGroups : Obligations.PackedBytesAreReversedInGroups := by
  intro m a b payload p hb
  have hq : b / 4 < (encodeWords payload p).length := by omega
  rw [show a + ((b - b % 4) + (3 - b % 4)) = a + 4 * (b / 4) + (3 - b % 4) by omega,
    Memory.read_writeWords m a _ hq (by omega)]
  refine congrArg some (BitVec.eq_of_getLsbD_eq fun i hi => ?_)
  have hwindow :
      (((bitStream payload p ++ List.replicate 32 false).drop (8 * b)).take 8).length = 8 := by
    have hhold := (encodeWords_hold_bitStream payload p).2
    rw [List.length_take, List.length_drop, List.length_append, List.length_replicate]
    omega
  have ht : 8 * b + (8 - 1 - i) < 32 * (encodeWords payload p).length := by omega
  rw [BitVec.getLsbD_ofNat, testBit_bitsValue_of_length hwindow hi, byteOf_getLsbD hi]
  calc (encodeWords payload p)[b / 4].getLsbD (8 * (3 - b % 4) + i)
    _ = ((encodeWords payload p).getD ((8 * b + (8 - 1 - i)) / 32) 0).getLsbD
          (31 - (8 * b + (8 - 1 - i)) % 32) := by
      rw [show (8 * b + (8 - 1 - i)) / 32 = b / 4 by omega, List.getD_eq_getElem _ _ hq]
      congr 1
      omega
    _ = (bitStream payload p).getD (8 * b + (8 - 1 - i)) false := encodeWords_getLsbD ht
    _ = _ := by
      rw [← getD_append_replicate _ 32]
      simp [hi, show 8 - 1 - i < 8 by omega]

end Sys2Proof.Machine
end

section
/-! ## The four messages, and V2BUS (42_mailbox_allocator.md R172 to R176, R184) -/

namespace Sys2Proof.Machine

/-! ### One message, one exchange -/

/-- Every message is well-formed, so the words R111 gives it are read back. -/
theorem decodeMessage_encode (code : Word) {i : Instr} (hc : i.carrier = .mailbox) :
    decodeMessage code (encode code i) = .ok i := by
  have hwf : i.wf = true := by
    cases i with
    | mbAlloc | mbLock | mbUnlock | mbFree => rfl
    | _ => cases hc
  have hback := decodeReadsBackEveryEncoding code i hwf
  rwa [hc] at hback

/-- Settles O5: the buffer's words are read back as the message they encode. -/
theorem stepRunsTheMailboxMessage : Obligations.StepRunsTheMailboxMessage := by
  intro s i hline hwaits hc hbuf
  simp [step, nextWork, hline, hwaits, hbuf, decodeMessage_encode _ hc]

/-- A message is its exchange and nothing more where no command is under way (log 18), and while
the firmware has not answered it, whatever is under way. -/
theorem exec_eq_mboxCall {i : Instr} (hc : i.carrier = .mailbox) {s : State}
    (h : s.seq = .idle ∨ mboxAnswer (encode s.cfg.mboxReqCode i) s = .pending) :
    exec i s = .next (mboxCall (encode s.cfg.mboxReqCode i) s) := by
  cases i with
  | mbAlloc size align flags =>
    cases hq : s.seq with
    | allocating j =>
      have hp := h.resolve_left (by simp [hq])
      exact (mbAlloc_of_allocating _ _ _ hq).trans (congrArg (afterAlloc j · _) hp)
    | _ =>
      unfold exec execMbAlloc mbAlloc
      rw [hq]
      rfl
  | mbLock handle =>
    cases hq : s.seq with
    | locking j =>
      have hp := h.resolve_left (by simp [hq])
      exact (mbLock_of_locking _ hq).trans (congrArg (afterLock j · _) hp)
    | _ =>
      unfold exec execMbLock mbLock
      rw [hq]
      rfl
  | mbUnlock handle =>
    refine congrArg Host.Outcome.next ?_
    rcases mbUnlock_cases handle s with ⟨e, -⟩ | ⟨r, hq, hmet, -⟩
    · exact e
    · exact absurd (h.resolve_left (by simp [hq])) hmet
  | mbFree handle =>
    refine congrArg Host.Outcome.next ?_
    rcases mbFree_cases handle s with ⟨e, -⟩ | ⟨r, hq, hmet, -⟩
    · exact e
    · exact absurd (h.resolve_left (by simp [hq])) hmet
  | _ => cases hc

/-- Settles O34: the pending exchange leaves the request in the buffer, where it stood. -/
theorem unansweredMessageWaits : Obligations.UnansweredMessageWaits := by
  intro s i as hc hbox hm hline
  have hwaits : s.mbox.waiting = true := by rw [hbox]
  constructor
  · rw [stepRunsTheMailboxMessage s i hline hwaits hc (by rw [hbox]),
      exec_eq_mboxCall hc (.inr (mboxAnswer_pending hm)), mboxCall_pending hm, ← hbox]
  · intro hover
    have hfree : s.mbox.waiting = false := hover.responded.notWaiting
    simp [hwaits] at hfree

/-- Settles O30: an answer of the message's length is taken into the buffer as it is. -/
theorem eachMessageIsOneExchange : Obligations.EachMessageIsOneExchange := by
  intro s size align flags h a b as hq ha hb
  have hone {i : Instr} {ws : List Word} (hc : i.carrier = .mailbox)
      (hm : s.env.mbox = .answered ws :: as)
      (hl : ws.length = (encode s.cfg.mboxReqCode i).length) :
      exec i s = .next { s with
        mbox := { buf := ws, waiting := false }
        env := s.env.popMbox
        trace := s.trace ++ [.mbox mboxIoctl (encode s.cfg.mboxReqCode i) (some ws)] } := by
    rw [exec_eq_mboxCall hc (.inl hq), mboxCall_answered hm hl]
  exact ⟨fun hm => hone (i := .mbAlloc size align flags) rfl hm ha, fun hm =>
    ⟨hone (i := .mbLock h) rfl hm hb, hone (i := .mbUnlock h) rfl hm hb,
      hone (i := .mbFree h) rfl hm hb⟩⟩

/-! ### MB_ALLOC's answer -/

/-- MB_LOCK not answered yet: the request is in the firmware's hands. -/
theorem mbLock_pending {s : State} {h : Word} {as : List MboxAnswer}
    (hm : s.env.mbox = .pending :: as) :
    mbLock h s = .next { s with
      mbox := { buf := request tagLock [h] s, waiting := true }
      env := s.env.popMbox } :=
  (exec_eq_mboxCall (i := .mbLock h) rfl (.inr (mboxAnswer_pending hm))).trans
    (congrArg _ (mboxCall_pending hm))

/-- Settles O31: the handle is written, MEM_STAGE is 1, and MB_LOCK's exchange is pending. -/
theorem allocAnswerIsLockedNext : Obligations.AllocAnswerIsLockedNext := by
  intro s size align flags j a as hq hm hl h5
  have hpending : (s.answeredWith (request tagAlloc [size, align, flags] s) a).env.mbox =
      .pending :: as := by simp [State.answeredWith, hm]
  exact ⟨_, (mbAlloc_handle hq hm hl h5).trans (mbLock_pending hpending),
    rfl, rfl, rfl, rfl, rfl, rfl, rfl, rfl, rfl⟩

/-! ### V2BUS -/

/-- The bus address of the byte at a pointer (20_memory.md R68), as words add and subtract. -/
theorem blockBus_sub {r : Session} {p : Word} (h : r.memVirt.toNat ≤ p.toNat) :
    blockBus r (p.toNat - r.memVirt.toNat) = r.memBus + (p - r.memVirt) := by
  apply BitVec.eq_of_toNat_eq
  have hp := p.isLt
  rw [blockBus, trunc32, BitVec.toNat_ofNat, BitVec.toNat_add, BitVec.toNat_sub_of_le h]

/-- Settles O20: the three places of a pointer; MEM_VIRT itself is the offset 0. -/
theorem v2busTranslatesInsideTheBlock : Obligations.V2busTranslatesInsideTheBlock := by
  intro s p
  have hout (h : s.sess.memStage = .mapped) (ho : p.toNat < s.sess.memVirt.toNat ∨
      s.sess.memVirt.toNat + s.sess.blockBytes.toNat ≤ p.toNat) :
      exec (.v2bus p) s = .next (raise (.usage .outOfBlock) s) := by
    dsimp only [exec, execV2bus]
    rw [if_neg (not_not.mpr h), if_pos (by omega)]
  have hin (q : Word) (h : s.sess.memStage = .mapped) (hlow : s.sess.memVirt.toNat ≤ q.toNat)
      (hhigh : q.toNat < s.sess.memVirt.toNat + s.sess.blockBytes.toNat) :
      exec (.v2bus q) s = .next (respond [0, s.sess.memBus + (q - s.sess.memVirt)] s) := by
    dsimp only [exec, execV2bus]
    rw [if_neg (not_not.mpr h), if_neg (by omega), blockBus_sub hlow, respondOk_eq]
  refine ⟨fun h => ?_, hout, hin p, fun h hpos => ?_⟩
  · dsimp only [exec, execV2bus]
    rw [if_pos h]
    rfl
  · have hzero := hin s.sess.memVirt h le_rfl (by omega)
    rwa [BitVec.sub_self, BitVec.add_zero] at hzero
end Sys2Proof.Machine
end

section
/-! ## Commands that make no mailbox exchange (42_mailbox_allocator.md R182)

Actions, windows and MemoryBlock writes never use the mailbox, and a command made of them alone does
not either. -/

namespace Sys2Proof.Machine

/-- The mailbox buffer is as before, and the history added holds no exchange. -/
def NoExchange (s t : State) : Prop :=
  t.mbox = s.mbox ∧ ∃ es, t.trace = s.trace ++ es ∧ ∀ c m a, Event.mbox c m a ∉ es

/-- If `r` is a next state, no exchange led to it from `s`. -/
def NoExchangeIfNext (s : State) (r : Res) : Prop := ∀ t, r = .next t → NoExchange s t

theorem NoExchange.refl (s : State) : NoExchange s s := ⟨rfl, [], by simp, by simp⟩

theorem NoExchange.after {s t u : State} (g : NoExchange t u) (h : NoExchange s t) :
    NoExchange s u := by
  obtain ⟨hbox, es, hes, hno⟩ := h
  obtain ⟨gbox, fs, hfs, gno⟩ := g
  refine ⟨gbox.trans hbox, es ++ fs, by rw [hfs, hes, List.append_assoc], fun c m a hmem => ?_⟩
  exact (List.mem_append.mp hmem).elim (hno c m a) (gno c m a)

/-- Changes outside mailbox and history do not count. -/
theorem NoExchange.of_eq {s t u : State} (h : NoExchange s t) (hb : u.mbox = t.mbox)
    (ht : u.trace = t.trace) : NoExchange s u := by
  obtain ⟨hbox, es, hes, hno⟩ := h
  exact ⟨hb.trans hbox, es, ht.trans hes, hno⟩

/-- One event that is no exchange. -/
theorem NoExchange.of_event {s t : State} {e : Event} (hb : t.mbox = s.mbox)
    (ht : t.trace = s.trace ++ [e]) (he : ∀ c m a, e ≠ .mbox c m a) : NoExchange s t :=
  ⟨hb, [e], ht, fun c m a hmem => he c m a (List.mem_singleton.mp hmem).symm⟩

theorem NoExchange.next {s t : State} (h : NoExchange s t) : NoExchangeIfNext s (.next t) := by
  rintro _ ⟨⟩
  exact h

theorem NoExchangeIfNext.after {s t : State} {r : Res} (g : NoExchangeIfNext t r)
    (h : NoExchange s t) : NoExchangeIfNext s r := fun u hu => (g u hu).after h

theorem NoExchangeIfNext.andThen {s : State} {r : Res} {k : State → Res}
    (h : NoExchangeIfNext s r) (g : ∀ t, NoExchangeIfNext t (k t)) :
    NoExchangeIfNext s (andThen r k) := by
  intro u hu
  obtain ⟨t, ht, hk⟩ := andThen_eq_next hu
  exact (g t u hk).after (h t ht)

/-! ### Operations -/

theorem respond_noExchange (ws : List Word) (s : State) : NoExchange s (respond ws s) :=
  .of_event rfl rfl nofun

/-- Registers written on the way to the response do not count. -/
theorem respond_sess_noExchange (ws : List Word) (s : State) (r : Session) :
    NoExchange s (respond ws { s with sess := r }) :=
  .of_event rfl rfl nofun

theorem winRead_noExchange (n : WinName) (i : Nat) (s : State) : NoExchange s (winRead n i s) :=
  .of_event rfl rfl nofun

theorem winWrite_noExchange (n : WinName) (i : Nat) (v : Word) (s : State) :
    NoExchange s (winWrite n i v s) :=
  .of_event rfl rfl nofun

theorem performAccess_noExchange (s : State) (x : Access) :
    NoExchange s (performAccess s x) := by
  cases x with
  | read n i => exact winRead_noExchange n i s
  | write n i v => exact winWrite_noExchange n i v s
  | modify n i clear set => exact (winWrite_noExchange n i _ _).after (winRead_noExchange n i s)

theorem performAccesses_noExchange (xs : List Access) (s : State) :
    NoExchange s (xs.foldl performAccess s) := by
  induction xs generalizing s with
  | nil => exact .refl s
  | cons x xs ih => exact (ih _).after (performAccess_noExchange s x)

theorem perform_noExchange (a : Action) (s : State) : NoExchange s (perform a s) := by
  have hrecord : NoExchange s (record [.action a] s) := .of_event rfl rfl nofun
  exact ((performAccesses_noExchange (realise s.cfg a) _).after hrecord).of_eq rfl rfl

theorem emit_noExchange (a : Action) (s : State) : NoExchangeIfNext s (emit a s) := by
  intro t h
  obtain ⟨rfl, -⟩ := emit_eq_next h
  exact perform_noExchange a s

theorem emitAll_noExchange (as : List Action) (s : State) :
    NoExchangeIfNext s (emitAll as s) := by
  induction as generalizing s with
  | nil => exact (NoExchange.refl s).next
  | cons a as ih => exact (emit_noExchange a s).andThen ih

theorem memWrites_noExchange (addr : Nat) (vs : List Word) (s : State) :
    NoExchangeIfNext s (memWrites addr vs s) := by
  induction vs generalizing addr s with
  | nil => exact (NoExchange.refl s).next
  | cons v vs ih =>
    refine NoExchangeIfNext.andThen (fun t h => ?_) (ih (addr + 4))
    obtain ⟨-, rfl⟩ := memWrite_eq_next h
    exact .of_event rfl rfl nofun

theorem winOpen_noExchange (n : WinName) (phys : Word) (s : State) :
    NoExchange s (winOpen n phys s) :=
  .of_event rfl rfl nofun

theorem winClose_noExchange (n : WinName) (s : State) : NoExchange s (winClose n s) := by
  unfold winClose
  split
  · exact .of_event rfl rfl nofun
  · exact .refl s

theorem openWindows_noExchange (ws : List (WinName × Word)) (s : State) :
    NoExchange s (openWindows ws s).2 := by
  induction ws generalizing s with
  | nil => exact .refl s
  | cons w ws ih =>
    obtain ⟨n, phys⟩ := w
    have hrest := (ih _).after (winOpen_noExchange n phys s)
    unfold openWindows
    split
    · split
      · rename_i u hu
        rwa [hu] at hrest
      · rename_i refused u hu
        rw [hu] at hrest
        exact (winClose_noExchange n u).after hrest
    · exact winOpen_noExchange n phys s

/-! ### SEND and DmaWait (43_dma_engine.md R194, R196) -/

theorem startSend_noExchange (payload : List Byte) (s : State) :
    NoExchangeIfNext s (startSend payload s) :=
  (memWrites_noExchange _ _ s).andThen fun a =>
    (emitAll_noExchange _ a).andThen fun b => (respond_sess_noExchange _ b _).next

theorem afterWait_noExchange {k : Poller} (hk : k ≠ .shutdown) (s : State) :
    NoExchangeIfNext s (afterWait k s) := by
  cases k with
  | wait => exact (respond_sess_noExchange _ s _).next
  | send payload => exact (startSend_noExchange payload _).after ((NoExchange.refl s).of_eq rfl rfl)
  | shutdown => exact absurd rfl hk

theorem afterWaitError_noExchange {k : Poller} (hk : k ≠ .shutdown) (debug : Word) (s : State) :
    NoExchangeIfNext s (afterWaitError k debug s) := by
  cases k with
  | wait => exact (respond_noExchange _ s).next
  | send payload => exact (respond_noExchange _ s).next
  | shutdown => exact absurd rfl hk

/-- A poll of any command but SHUTDOWN, whose wait a release follows. -/
theorem dmaPoll_noExchange {k : Poller} (hk : k ≠ .shutdown) (s : State) :
    NoExchangeIfNext s (dmaPoll k s) := by
  refine (emit_noExchange _ s).andThen fun a => ?_
  dsimp only
  split
  · refine (emit_noExchange _ a).andThen fun b => ?_
    exact (afterWaitError_noExchange hk _ _).after ((NoExchange.refl b).of_eq rfl rfl)
  split
  · exact (afterWait_noExchange hk _).after ((NoExchange.refl a).of_eq rfl rfl)
  · exact NoExchange.next (.of_event rfl rfl nofun)

/-! ### Commands -/

theorem execInit_noExchange (g alt ch base : Word) (s : State) :
    NoExchangeIfNext s (execInit g alt ch base s) := by
  have hopen := openWindows_noExchange (initWindows s.cfg base) s
  refine NoExchange.next ?_
  split
  · exact respond_noExchange _ s
  split
  · exact respond_noExchange _ s
  split
  · exact respond_noExchange _ s
  split
  · rename_i refused t ht
    rw [ht] at hopen
    exact (respond_noExchange _ _).after (hopen.of_eq rfl rfl)
  · rename_i t ht
    rw [ht] at hopen
    exact (respond_sess_noExchange _ _ _).after ((perform_noExchange _ t).after hopen)

theorem execSend_noExchange (payload : List Byte) (s : State) :
    NoExchangeIfNext s (execSend payload s) := by
  unfold execSend
  split
  · exact (respond_noExchange _ s).next
  split
  · exact (respond_noExchange _ s).next
  split
  · exact dmaPoll_noExchange (k := .send payload) nofun s
  · exact startSend_noExchange payload s

theorem execWait_noExchange (s : State) : NoExchangeIfNext s (execWait s) := by
  unfold execWait
  split
  · exact (respond_noExchange _ s).next
  split
  · exact dmaPoll_noExchange (k := .wait) nofun s
  · exact (respond_noExchange _ s).next

theorem execDreset_noExchange (s : State) : NoExchangeIfNext s (execDreset s) := by
  unfold execDreset
  split
  · exact (emit_noExchange _ s).andThen fun t => (respond_sess_noExchange _ t _).next
  · exact (respond_noExchange _ s).next

/-- Settles O53: the queries only respond, and INIT, SEND, WAIT and DRESET are made of actions,
windows and MemoryBlock writes. -/
theorem onlyTwoCommandsUseTheMailbox : Obligations.OnlyTwoCommandsUseTheMailbox := by
  intro i s t hc h hcfgpat hshutdown
  by_cases hq : isQuery i = true
  · obtain ⟨ws, e⟩ := exec_of_isQuery hq s
    exact (respond_noExchange ws s).next t (e.symm.trans h)
  cases i with
  | init g alt ch base => exact execInit_noExchange g alt ch base s t h
  | cfgpat n f r z o => exact absurd rfl (hcfgpat n f r z o)
  | send payload => exact execSend_noExchange payload s t h
  | wait => exact execWait_noExchange s t h
  | shutdown => exact absurd rfl hshutdown
  | dreset => exact execDreset_noExchange s t h
  | mbAlloc | mbLock | mbUnlock | mbFree => cases hc
  | _ => exact absurd rfl hq

end Sys2Proof.Machine
end

section
/-! ## Giving the MemoryBlock back (42_mailbox_allocator.md R180, R181)

A release under way ends as a SHUTDOWN or as a CFGPAT that fails, and so does a CFGPAT whose
allocation fails, from each place where it can. What the exchanges on the way leave is said once
(`Exchanged`, `Allocating`), and each part of the way is a lemma about its own first state. -/

namespace Sys2Proof.Machine

/-! ### What exchanges leave -/

/-- From `s` to `u` there were exchanges, mappings and register updates only, with these events. -/
structure Exchanged (s : State) (es : List Event) (u : State) : Prop where
  config : u.cfg = s.cfg
  windows : u.win = s.win
  memory : u.mem = s.mem
  inflight : u.inflight = s.inflight
  channel : u.chan = s.chan
  history : u.trace = s.trace ++ es

/-- An exchange, and whatever it makes of micro-sequence and registers. -/
theorem Exchanged.met (s : State) (m : List Word) (x : MboxAnswer) (q : Seq) (r : Session) :
    Exchanged s (mboxEvents m x) { s.metWith m x with seq := q, sess := r } :=
  ⟨rfl, rfl, rfl, rfl, rfl, rfl⟩

/-- Both exchanges of a release. -/
theorem Exchanged.released (s : State) (x y : MboxAnswer) (q : Seq) :
    Exchanged s (releaseEvents s.cfg s.sess.memHandle x y)
      { s.releasedWith x y with seq := q } :=
  ⟨rfl, rfl, rfl, rfl, rfl, releasedWith_trace s x y⟩

theorem Exchanged.after {s u v : State} {es fs : List Event} (g : Exchanged u fs v)
    (h : Exchanged s es u) : Exchanged s (es ++ fs) v :=
  ⟨g.config.trans h.config, g.windows.trans h.windows, g.memory.trans h.memory,
    g.inflight.trans h.inflight, g.channel.trans h.channel,
    by rw [g.history, h.history, List.append_assoc]⟩

/-! ### SHUTDOWN's release -/

/-- The session a release belongs to (10_state.md R31). -/
theorem Inv.releaseOk {s : State} {r : Releaser} (h : Inv s)
    (hq : s.seq = .unlocking r ∨ s.seq = .freeing r) : ReleaseOk s r := by
  have hp := h.position
  rw [SeqOk] at hp
  rcases hq with hq | hq <;> rw [hq] at hp <;> exact hp.2.2.2

/-- What SHUTDOWN has noted after exchanges of which one failed or none (R181). -/
def noteFailure (n : Option CmdError) (failed : Prop) [Decidable failed] : Option CmdError :=
  if n = none ∧ failed then some (.alloc .mboxFailed) else n

theorem afterExchange_eq_noteFailure (n : Option CmdError) (x : MboxAnswer) :
    (Releaser.shutdown n).afterExchange x = .shutdown (noteFailure n (x = .failed)) :=
  afterExchange_shutdown n x

theorem afterBoth_eq_noteFailure (n : Option CmdError) (x y : MboxAnswer) :
    (Releaser.shutdown n).afterBoth x y =
      .shutdown (noteFailure n (x = .failed ∨ y = .failed)) := by
  cases n with
  | some e => rfl
  | none => cases x <;> cases y <;> rfl

/-- SHUTDOWN reports the error noted before; else the failed exchange; else OK. -/
theorem notedResponse_noteFailure (n : Option CmdError) (failed : Prop) [Decidable failed] :
    (∀ e, n = some e → notedResponse (noteFailure n failed) = e.response) ∧
    (n = none → failed → notedResponse (noteFailure n failed) = [0x00000402]) ∧
    (n = none → ¬ failed → notedResponse (noteFailure n failed) = [0]) := by
  refine ⟨?_, ?_, ?_⟩
  · rintro e rfl
    rw [noteFailure, if_neg (by simp)]
    rfl
  · intro hn hf
    rw [noteFailure, if_pos ⟨hn, hf⟩]
    exact response_mboxFailed
  · intro hn hf
    rw [noteFailure, if_neg (by simp [hf]), hn]
    rfl

/-- Noting a failed exchange says nothing about the transfer. -/
theorem inflightAfterShutdown_noteFailure (n : Option CmdError) (failed : Prop) [Decidable failed]
    (b : Bool) :
    inflightAfterShutdown (noteFailure n failed) b = inflightAfterShutdown n b := by
  rw [noteFailure]
  split
  · rename_i hn
    rw [hn.1]
    rfl
  · rfl

/-- The end of a SHUTDOWN whose release began in `s` and has made its exchanges: everything is given
back, and the response is the one the errors noted give (44_session.md R222). -/
theorem Exchanged.shutdown_ends {s u : State} {es : List Event} {g : MemStage}
    {n : Option CmdError} {failed : Prop} [Decidable failed] {i : Instr} (hu : Exchanged s es u)
    (hsess : u.sess = { s.sess with memStage := g }) (hw : u.mbox.waiting = false) (hinv : Inv s)
    (hleave : Leaving s n)
    (hends : exec i s = .next (finishShutdown (noteFailure n failed) u)) :
    ∃ t w, exec i s = .next t ∧ Responded t ∧ Clean t ∧
      t.sess = { s.sess with state := .shutDown, patternValid := false, memStage := .none } ∧
      t.cfg = s.cfg ∧ t.mem = s.mem ∧
      t.chan = { s.chan with busy := false, response := some w } ∧
      (∀ e, n = some e → w = e.response) ∧ (n = none → failed → w = [0x00000402]) ∧
      (n = none → ¬ failed → w = [0]) ∧
      t.trace = s.trace ++ es ++ closingEvents w := by
  have hopen : WindowsReady u :=
    (hinv.opened hleave.live).of_eq hu.config hu.windows (by rw [hsess])
  obtain ⟨herror, hfailed, hok⟩ := notedResponse_noteFailure n failed
  refine ⟨_, _, hends, finishShutdown_responded _ hw, finishShutdown_clean _ ?_, ?_, ?_, ?_, ?_,
    herror, hfailed, hok, ?_⟩
  · rw [inflightAfterShutdown_noteFailure, hu.inflight, hleave.quiet]
  · rw [finishShutdown_sess, hsess]
  · rw [finishShutdown_cfg, hu.config]
  · rw [finishShutdown_mem, hu.memory]
  · rw [finishShutdown_chan, hu.channel]
  · rw [finishShutdown_trace_open _ hopen, hu.history]

/-! ### CFGPAT's roll-back -/

/-- A CFGPAT that began in `s` has come to `u`: exchanges and mappings, and of the registers only
those 44_session.md R218 names, and MEM_STAGE, have changed. -/
structure Allocating (s : State) (es : List Event) (u : State) : Prop extends
    Exchanged s es u where
  registers : ∃ b m a g, u.sess =
    { s.sess with blockBytes := b, memHandle := m, memBus := a, memStage := g }

/-- CFGPAT has moved on and written BLOCK_BYTES. -/
theorem Allocating.begun (s : State) (q : Seq) (b : Word) :
    Allocating s [] { s with seq := q, sess := { s.sess with blockBytes := b } } :=
  ⟨⟨rfl, rfl, rfl, rfl, rfl, (List.append_nil _).symm⟩, _, _, _, _, rfl⟩

/-- CFGPAT has made an exchange and written what it told. -/
theorem Allocating.met (s : State) (m : List Word) (x : MboxAnswer) (q : Seq) (h a : Word)
    (g : MemStage) :
    Allocating s (mboxEvents m x) { s.metWith m x with
      seq := q, sess := { s.sess with memHandle := h, memBus := a, memStage := g } } :=
  ⟨.met s m x q _, _, _, _, _, rfl⟩

theorem Allocating.after {s u v : State} {es fs : List Event} (g : Allocating u fs v)
    (h : Allocating s es u) : Allocating s (es ++ fs) v := by
  obtain ⟨b, m, a, t, e⟩ := g.registers
  obtain ⟨b', m', a', t', e'⟩ := h.registers
  exact ⟨g.toExchanged.after h.toExchanged, b, m, a, t, by rw [e, e']⟩

/-- `r` ends a CFGPAT that began in `s` with the AllocError of this cause. -/
def RollsBack (c : AllocCause) (s : State) (es : List Event) (r : Res) : Prop :=
  ∃ u, r = .next (failConfigure (.alloc c) u) ∧ Allocating s es u ∧ u.mbox.waiting = false

theorem RollsBack.after {c : AllocCause} {s u : State} {es fs : List Event} {r : Res}
    (g : RollsBack c u fs r) (h : Allocating s es u) : RollsBack c s (es ++ fs) r := by
  obtain ⟨v, hr, hv, hw⟩ := g
  exact ⟨v, hr, hv.after h, hw⟩

/-- The end of a failed CFGPAT makes R218's three registers unspecified, and MEM_STAGE 0. -/
theorem RollsBack.failsCfgpat {c : AllocCause} {s : State} {es : List Event} {i : Instr}
    (h : RollsBack c s es (exec i s)) : FailsCfgpat i s (trunc32 (c.code * 256 + 2)) es := by
  obtain ⟨u, hr, hu, hw⟩ := h
  obtain ⟨b, m, a, g, hsess⟩ := hu.registers
  refine ⟨_, Config.freeReg u.env.drawn 0, Config.freeReg u.env.drawn 1,
    Config.freeReg u.env.drawn 2, hr, ?_, hu.config, hu.windows, hu.memory, hu.inflight, rfl, hw,
    ?_, ?_⟩
  · rw [failConfigure_sess, hsess]
    rfl
  · rw [failConfigure_chan, hu.channel, response_alloc]
  · rw [failConfigure_trace, hu.history, response_alloc]

/-- MB_FREE met: the roll-back is over. -/
theorem mbFree_rollsBack {s : State} {c : AllocCause} {y : MboxAnswer} {as : List MboxAnswer}
    (h : Word) (hq : s.seq = .freeing (.rollBack (.alloc c))) (hm : s.env.mbox = y :: as)
    (hy : exchangeMet 7 y = true) :
    RollsBack c s (mboxEvents (request tagFree [h] s) y) (.next (mbFree h s)) := by
  rw [mbFree_met hq hm hy, afterExchange_rollBack]
  exact ⟨_, rfl, ⟨.met s _ y s.seq s.sess, _, _, _, _, rfl⟩, rfl⟩

/-- MB_UNLOCK and MB_FREE met: the roll-back is over. -/
theorem mbUnlock_rollsBack {s : State} {c : AllocCause} {x y : MboxAnswer} {as : List MboxAnswer}
    (hq : s.seq = .unlocking (.rollBack (.alloc c))) (hm : s.env.mbox = x :: y :: as)
    (hx : exchangeMet 7 x = true) (hy : exchangeMet 7 y = true) :
    RollsBack c s (releaseEvents s.cfg s.sess.memHandle x y)
      (.next (mbUnlock s.sess.memHandle s)) := by
  obtain ⟨q, e⟩ := mbUnlock_mbFree_met hq hm hx hy
  rw [e, Releaser.afterBoth, afterExchange_rollBack, afterExchange_rollBack]
  exact ⟨_, rfl, ⟨.released s x y q, _, _, _, _, rfl⟩, rfl⟩

/-- Settles O33: a SHUTDOWN's release ends in `finishShutdown` with what its exchanges noted, a
CFGPAT's in `failConfigure`, from either message. -/
theorem releaseGoesOnPastFailures : Obligations.ReleaseGoesOnPastFailures := by
  intro s n c x y as hinv hx hy unlock free freeEvents both ends
  refine ⟨fun hq hm => ?_, fun hq hm => ?_, fun hq hm => ?_, fun hq hm => ?_⟩
  · obtain ⟨q, e⟩ := mbUnlock_mbFree_met hq hm hx hy
    rw [afterBoth_eq_noteFailure] at e
    exact (Exchanged.released s x y q).shutdown_ends rfl rfl hinv (hinv.releaseOk (.inl hq))
      (congrArg Host.Outcome.next e)
  · have e := mbFree_met (h := s.sess.memHandle) hq hm hy
    rw [afterExchange_eq_noteFailure] at e
    exact (Exchanged.met s _ y s.seq s.sess).shutdown_ends rfl rfl hinv
      (hinv.releaseOk (.inr hq)) (congrArg Host.Outcome.next e)
  · exact (mbUnlock_rollsBack hq hm hx hy).failsCfgpat
  · exact (mbFree_rollsBack s.sess.memHandle hq hm hy).failsCfgpat

/-! ### Where an allocation can fail (R179) -/

/-- Nothing held: the roll-back is over at once. -/
theorem startRelease_none_rollsBack {s : State} {c : AllocCause} (hs : s.sess.memStage = .none)
    (hw : s.mbox.waiting = false) :
    RollsBack c s [] (.next (startRelease (.rollBack (.alloc c)) s)) := by
  rw [startRelease_none hs]
  exact ⟨s, rfl, .begun s s.seq s.sess.blockBytes, hw⟩

/-- A handle held: it is freed. -/
theorem startRelease_allocated_rollsBack {s : State} {c : AllocCause} {y : MboxAnswer}
    {as : List MboxAnswer} (hs : s.sess.memStage = .allocated) (hm : s.env.mbox = y :: as)
    (hy : exchangeMet 7 y = true) :
    RollsBack c s (mboxEvents (request tagFree [s.sess.memHandle] s) y)
      (.next (startRelease (.rollBack (.alloc c)) s)) := by
  rw [startRelease_allocated hs]
  exact (mbFree_rollsBack (s := { s with seq := _ }) _ rfl hm hy).after
    (.begun s _ s.sess.blockBytes)

/-- A locked block: it is unlocked and freed. -/
theorem startRelease_locked_rollsBack {s : State} {c : AllocCause} {x y : MboxAnswer}
    {as : List MboxAnswer} (hs : s.sess.memStage = .locked) (hm : s.env.mbox = x :: y :: as)
    (hx : exchangeMet 7 x = true) (hy : exchangeMet 7 y = true) :
    RollsBack c s (releaseEvents s.cfg s.sess.memHandle x y)
      (.next (startRelease (.rollBack (.alloc c)) s)) := by
  rw [startRelease_locked hs]
  exact (mbUnlock_rollsBack (s := { s with seq := _ }) rfl hm hx hy).after
    (.begun s _ s.sess.blockBytes)

/-- A CFGPAT that `i` begins or goes on with in `s` is about to make MB_ALLOC, in `u`. -/
structure AtAlloc (i : Instr) (s : State) (bb size align flags : Word) (j : CfgJob) (u : State) :
    Prop where
  runs : exec i s = mbAlloc size align flags u
  since : Allocating s [] u
  position : u.seq = .allocating j
  stage : u.sess.memStage = .none
  block : u.sess.blockBytes = bb
  answers : u.env = s.env

/-- It is about to make MB_LOCK, in `u`, with these answers to come. -/
structure AtLock (i : Instr) (s : State) (es : List Event) (bb h : Word)
    (answers : List MboxAnswer) (j : CfgJob) (u : State) : Prop where
  runs : exec i s = mbLock h u
  since : Allocating s es u
  position : u.seq = .locking j
  stage : u.sess.memStage = .allocated
  block : u.sess.blockBytes = bb
  handle : u.sess.memHandle = h
  exchanges : u.env.mbox = answers
  mappings : u.env.maps = s.env.maps

/-- A request's words depend on the configuration alone (R171). -/
theorem request_of_config {s t : State} (h : t.cfg = s.cfg) (tag : Word) (args : List Word) :
    request tag args t = request tag args s := by rw [request, h, ← request]

section
variable {i : Instr} {s u : State} {bb size align flags h : Word} {j : CfgJob} {es : List Event}
  {a : List Word} {x y : MboxAnswer} {as : List MboxAnswer} {ms : List (Option Word)}

/-- MB_ALLOC met and no handle got: the CFGPAT ends. -/
theorem AtAlloc.fails {c : AllocCause} (hat : AtAlloc i s bb size align flags j u)
    (hrun : mbAlloc size align flags u = .next (startRelease (.rollBack (.alloc c))
      (u.metWith (request tagAlloc [size, align, flags] u) x))) :
    FailsCfgpat i s (trunc32 (c.code * 256 + 2))
      (mboxEvents (request tagAlloc [size, align, flags] s) x) := by
  apply RollsBack.failsCfgpat
  rw [hat.runs, hrun, ← request_of_config hat.since.config]
  simpa using (startRelease_none_rollsBack (s := u.metWith _ x) hat.stage rfl).after
    ((Allocating.met u _ x u.seq u.sess.memHandle u.sess.memBus u.sess.memStage).after hat.since)

/-- MB_ALLOC answered with a handle: MB_LOCK of it is next. -/
theorem AtAlloc.atLock (hat : AtAlloc i s bb size align flags j u)
    (hm : s.env.mbox = .answered a :: as) (hl : a.length = 9) (h5 : a.getD 5 0 ≠ 0) :
    AtLock i s [.mbox mboxIoctl (request tagAlloc [size, align, flags] s) (some a)] bb
      (a.getD 5 0) as j
      { u.answeredWith (request tagAlloc [size, align, flags] u) a with
        seq := .locking j
        sess := { u.sess with memHandle := a.getD 5 0, memStage := .allocated } } where
  runs := hat.runs.trans (mbAlloc_handle hat.position (hat.answers ▸ hm) hl h5)
  since := by
    rw [← request_of_config hat.since.config]
    exact (Allocating.met u _ (.answered a) _ (a.getD 5 0) u.sess.memBus .allocated).after hat.since
  position := rfl
  stage := rfl
  block := hat.block
  handle := rfl
  exchanges := by simp [State.answeredWith, hat.answers, hm]
  mappings := by simp [State.answeredWith, hat.answers]

/-- MB_LOCK met and no bus address got: the handle is freed. -/
theorem AtLock.fails {c : AllocCause} (hat : AtLock i s es bb h (x :: y :: as) j u)
    (hrun : mbLock h u = .next (startRelease (.rollBack (.alloc c))
      (u.metWith (request tagLock [h] u) x))) (hy : exchangeMet 7 y = true) :
    FailsCfgpat i s (trunc32 (c.code * 256 + 2))
      (es ++ mboxEvents (request tagLock [h] s) x ++ mboxEvents (request tagFree [h] s) y) := by
  obtain rfl := hat.handle
  apply RollsBack.failsCfgpat
  rw [hat.runs, hrun, ← request_of_config hat.since.config, ← request_of_config hat.since.config]
  exact (startRelease_allocated_rollsBack (s := u.metWith _ x) (as := as) hat.stage
    (by simp [State.metWith, hat.exchanges]) hy).after
      ((Allocating.met u _ x u.seq u.sess.memHandle u.sess.memBus u.sess.memStage).after hat.since)

/-- MB_LOCK answered with a bus address whose mapping is refused: the block is unlocked and
freed. -/
theorem AtLock.mapping_refused (hat : AtLock i s es bb h (.answered a :: x :: y :: as) j u)
    (hl : a.length = 7) (h5 : a.getD 5 0 ≠ 0xFFFFFFFF) (hmap : s.env.maps = none :: ms)
    (hx : exchangeMet 7 x = true) (hy : exchangeMet 7 y = true) :
    FailsCfgpat i s (trunc32 (AllocCause.mapFailed.code * 256 + 2))
      (es ++ [.mbox mboxIoctl (request tagLock [h] s) (some a),
        .mapPhys (a.getD 5 0 &&& ~~~s.cfg.uncachedAliasMask) bb none] ++
        releaseEvents s.cfg h x y) := by
  obtain rfl := hat.handle
  obtain rfl := hat.block
  apply RollsBack.failsCfgpat
  rw [hat.runs, mbLock_address hat.position hat.exchanges hl h5, mapBlock_refused
    (ms := ms) (by simp [State.answeredWith, hat.mappings, hmap]),
    ← request_of_config hat.since.config, ← hat.since.config]
  refine (startRelease_locked_rollsBack (as := as) rfl
    (by simp [State.answeredWith, hat.exchanges]) hx hy).after
      (Allocating.after (u := u) ⟨⟨rfl, rfl, rfl, rfl, rfl, ?_⟩, _, _, _, _, rfl⟩ hat.since)
  simp [State.answeredWith]

end

/-- Settles O29: CFGPAT begins at MB_ALLOC, an MB_ALLOC answered later is there already, and an
MB_LOCK answered later is at MB_LOCK, where an MB_ALLOC answered with a handle comes to. -/
theorem cfgpatRollsBackItsAllocation : Obligations.CfgpatRollsBackItsAllocation := by
  intro s n f r z o size align flags p j a1 a2 x y as ms hst hv ha1 ha2 hx hy
    code fromLock fromAlloc bb
  have hlock (i : Instr) (b h : Word) (before : List MboxAnswer) (es : List Event)
      (hreach : ∀ rest, s.env.mbox = before ++ rest → ∃ j u, AtLock i s es b h rest j u) :
      fromLock i b h before es := by
    refine ⟨fun hm => ?_, fun hm h5 => ?_, fun hm h5 hmap => ?_⟩ <;>
      obtain ⟨j, u, hat⟩ := hreach _ hm
    · exact hat.fails (mbLock_failed hat.position hat.exchanges) hx
    · exact hat.fails (mbLock_refused hat.position hat.exchanges ha2 h5) hx
    · exact hat.mapping_refused ha2 h5 hmap hx hy
  have halloc {i : Instr} {b a c d : Word} {j : CfgJob} {u : State}
      (hat : AtAlloc i s b a c d j u) : fromAlloc i b (request tagAlloc [a, c, d] s) := by
    refine ⟨fun hm => ?_, fun hm h5 => ?_, fun h5 => ?_⟩
    · exact hat.fails (x := .failed) (mbAlloc_failed hat.position (hat.answers ▸ hm))
    · exact hat.fails (x := .answered a1) (mbAlloc_zero hat.position (hat.answers ▸ hm) ha1 h5)
    · exact hlock _ _ _ _ _ fun rest hm => ⟨_, _, hat.atLock hm ha1 h5⟩
  refine ⟨fun hs hz ho hf hp hb => ?_, fun hq hs => ?_, fun hq hs => ?_⟩
  · exact halloc ⟨execCfgpat_allocates hst hv hz ho hf hp hb, .begun s _ bb, rfl, hs, rfl, rfl⟩
  · exact halloc ⟨rfl, .begun s s.seq s.sess.blockBytes, hq, hs, rfl, rfl⟩
  · exact hlock _ _ _ _ _ fun rest hm =>
      ⟨j, s, rfl, .begun s s.seq s.sess.blockBytes, hq, hs, rfl, rfl, hm, rfl⟩

end Sys2Proof.Machine
end

section
/-! ## A CFGPAT whose block is mapped (42_mailbox_allocator.md R179, 44_session.md R217) -/

namespace Sys2Proof.Machine

/-! ### The block's bytes -/

/-- The bytes of a fresh block after CFGPAT's end: a descriptor from its first byte, then `n` words
of zeros. -/
def preparedBytes (base : Nat) (desc : List Word) (n : Nat) : Memory :=
  Memory.writeWords (Memory.writeWords [] (base + 4 * desc.length) (List.replicate n 0)) base desc

theorem readWord_preparedBytes_descriptor {desc : List Word} {q : Nat} (base n : Nat)
    (hq : q < desc.length) :
    (preparedBytes base desc n).readWord (base + 4 * q) = some (desc.getD q 0) := by
  rw [List.getD_eq_getElem _ _ hq]
  exact Memory.readWord_writeWords _ _ _ hq

theorem readWord_preparedBytes_region {n q : Nat} (base : Nat) (desc : List Word) (hq : q < n) :
    (preparedBytes base desc n).readWord (base + 4 * desc.length + 4 * q) = some 0 := by
  rw [preparedBytes, Memory.readWord_writeWords_other _ _ _ (by omega),
    Memory.readWord_writeWords _ _ _ (by simpa using hq), List.getElem_replicate]

theorem read_preparedBytes_outside {base n c : Nat} {desc : List Word}
    (hc : c < base ∨ base + 4 * desc.length + 4 * n ≤ c) :
    (preparedBytes base desc n).read c = none := by
  rw [preparedBytes, Memory.read_writeWords_other _ _ _ (by omega),
    Memory.read_writeWords_other _ _ _ (by rw [List.length_replicate]; omega)]
  rfl

/-- A word inside the mapped block is what its bytes say (20_memory.md R70). -/
theorem memRead_at_offset {s : State} {k : Nat} (hm : s.sess.memStage = .mapped) (h4 : k % 4 = 0)
    (hk : k + 4 ≤ s.sess.blockBytes.toNat) :
    memRead (blockVirt s.sess k) s = s.mem.readWord (blockVirt s.sess k) := by
  rw [memRead, if_pos (blockHolds_of_offset hm h4 hk)]

/-! ### What CFGPAT's end leaves -/

/-- CFGPAT's end in `t`, after a mapping at `v` was granted in `s`. -/
structure Prepared (s : State) (j : CfgJob) (v : Word) (t : State) : Prop where
  registers : t.sess =
    Session.configured { s.sess with memVirt := v, memStage := .mapped } j (jobDivisor s.cfg j)
  memory : t.mem = preparedBytes v.toNat (jobDescriptor s j) (j.patternBytes.toNat / 4)
  config : t.cfg = s.cfg
  windows : t.win = s.win
  inflight : t.inflight = s.inflight
  position : t.seq = .idle
  buffer : t.mbox = s.mbox
  channel : t.chan = { s.chan with
    busy := false
    response := some (0 :: cfgpatResults (s.sess.configured j (jobDivisor s.cfg j))) }
  history : t.trace = s.trace ++
    [.mapPhys (s.sess.memBus &&& ~~~s.cfg.uncachedAliasMask) s.sess.blockBytes (some v)] ++
    memWriteEvents (v.toNat + s.cfg.descBytes) (List.replicate (j.patternBytes.toNat / 4) 0) ++
    setupEvents s.cfg (jobDivisor s.cfg j) s.sess.channel ++
    memWriteEvents v.toNat (jobDescriptor s j) ++
    [.response (0 :: cfgpatResults (s.sess.configured j (jobDivisor s.cfg j)))]

/-- The descriptor fills its part of the block (20_memory.md R69). -/
theorem jobDescriptor_bytes {s : State} (hc : s.cfg.valid = true) (j : CfgJob) :
    4 * (jobDescriptor s j).length = s.cfg.descBytes := by
  obtain ⟨-, -, -, -, -, -, h4, -⟩ := (Config.valid_iff _).mp hc
  rw [jobDescriptor, buildDescriptor_length hc]
  omega

/-- A granted mapping of a block large enough: CFGPAT goes on to its end. -/
theorem mapBlock_prepares {s : State} {j : CfgJob} {v : Word} {ms : List (Option Word)}
    (hw : WindowsReady s) (hc : s.cfg.valid = true)
    (hf : s.cfg.descBytes + j.patternBytes.toNat ≤ s.sess.blockBytes.toNat)
    (hm : s.env.maps = some v :: ms) : ∃ t, mapBlock j s = .next t ∧ Prepared s j v t := by
  have hend := (mapBlock_granted (j := j) hm).trans
    (finishConfigure_eq (by exact hw.of_eq rfl rfl rfl) hc rfl hf)
  refine ⟨_, hend, rfl, ?_, rfl, rfl, rfl, rfl, rfl, rfl, rfl⟩
  rw [preparedBytes, jobDescriptor_bytes hc, respond_mem]
  dsimp only [blockVirt, Nat.add_zero]
  rfl

section
variable {s t : State} {j : CfgJob} {v : Word} (h : Prepared s j v t)
include h

/-- A word of the prepared block. -/
theorem Prepared.memRead_eq {k : Nat} (h4 : k % 4 = 0) (hk : k + 4 ≤ s.sess.blockBytes.toNat) :
    memRead (v.toNat + k) t =
      (preparedBytes v.toNat (jobDescriptor s j) (j.patternBytes.toNat / 4)).readWord
        (v.toNat + k) := by
  have hread := memRead_at_offset (s := t) (k := k) (by rw [h.registers]; rfl) h4
    (by rw [h.registers]; exact hk)
  rwa [h.memory, h.registers] at hread

variable (hc : s.cfg.valid = true)
  (hf : s.cfg.descBytes + j.patternBytes.toNat ≤ s.sess.blockBytes.toNat)
include hc

theorem Prepared.read_outside {c : Nat}
    (hout : c < v.toNat ∨ v.toNat + s.cfg.descBytes + j.patternBytes.toNat ≤ c) :
    t.mem.read c = none := by
  have hlen := jobDescriptor_bytes hc j
  rw [h.memory]
  exact read_preparedBytes_outside (by omega)

include hf

theorem Prepared.memRead_descriptor {q : Nat} (hq : q < s.cfg.descBytes / 4) :
    memRead (v.toNat + 4 * q) t = some ((jobDescriptor s j).getD q 0) := by
  have hlen := jobDescriptor_bytes hc j
  rw [h.memRead_eq (by omega) (by omega)]
  exact readWord_preparedBytes_descriptor _ _ (by omega)

theorem Prepared.memRead_region {q : Nat} (hq : q < j.patternBytes.toNat / 4) :
    memRead (v.toNat + s.cfg.descBytes + 4 * q) t = some 0 := by
  have hlen := jobDescriptor_bytes hc j
  rw [Nat.add_assoc, h.memRead_eq (by omega) (by omega), ← Nat.add_assoc, ← hlen]
  exact readWord_preparedBytes_region _ _ hq

end

/-- FIFO_DEST_ADDR (20_memory.md R74), as words add. -/
theorem fifoDestAddr_eq (c : Config) (base : Word) :
    c.fifoDestAddr base = base + c.pwmOffset + c.pwmFifoOffset := by
  apply BitVec.eq_of_toNat_eq
  simp [Config.fifoDestAddr, trunc32]

/-- Settles O32: the bus address is written, its range mapped, and CFGPAT goes on to its end. -/
theorem lockAnswerIsMappedNext : Obligations.LockAnswerIsMappedNext := by
  intro s j v a as ms hinv hq hm hl h5 hmap
  have hp := hinv.position
  rw [SeqOk, hq] at hp
  obtain ⟨-, ⟨hstate, -⟩, -, hjob⟩ := hp
  have hfits := hjob.layout.fits
  rw [← hjob.block] at hfits
  have hopen := hinv.opened (by simp [Session.live, hstate])
  obtain ⟨t, ht, hprep⟩ := mapBlock_prepares
    (s := { s.answeredWith (request tagLock [s.sess.memHandle] s) a with
      seq := .idle
      sess := { s.sess with memBus := a.getD 5 0, memStage := .locked } })
    (j := j) (hopen.of_eq rfl rfl rfl) hinv.config hfits hmap
  refine ⟨t, (mbLock_address hq hm hl h5).trans ht, ?_⟩
  rw [← fifoDestAddr_eq]
  refine ⟨hprep.registers, fun _ => hprep.memRead_descriptor hinv.config hfits,
    fun _ => hprep.memRead_region hinv.config hfits, fun _ => hprep.read_outside hinv.config,
    hprep.config, hprep.windows, hprep.inflight, hprep.position,
    congrArg Mailbox.waiting hprep.buffer, hprep.channel, hprep.history.trans ?_⟩
  simp only [State.answeredWith, List.append_assoc]
  rfl

end Sys2Proof.Machine
end

section
/-! ## The DMA engine's commands (43_dma_engine.md R192, R196, R198)

BLDDESC, DRESET, and the commands a DmaWait belongs to: what a poll answers them, and the registers
they keep. -/

namespace Sys2Proof.Machine

/-! ### BLDDESC -/

/-- Settles O19: past the three operands the descriptor is zeros, the two it lists as fields and the
reserved ones alike. -/
theorem blddescBuildsOneShotDescriptor : Obligations.BlddescBuildsOneShotDescriptor := by
  intro s source dest len hc
  refine ⟨buildDescriptor s.cfg source dest len, rfl, buildDescriptor_length hc _ _ _, rfl, rfl,
    rfl, rfl, fun j hj => ?_⟩
  obtain ⟨k, rfl⟩ := Nat.exists_eq_add_of_le' hj
  change (List.replicate (s.cfg.descBytes / 4 - 6 + 2) (0 : Word)).getD k 0 = 0
  rw [List.getD_eq_getElem?_getD, List.getElem?_replicate]
  split <;> rfl

/-! ### DmaWait in Sending -/

theorem exec_wait_of_sending {s : State} (h : s.sess.state = .sending) :
    exec .wait s = dmaPoll .wait s := by
  simp [exec, execWait, Session.live, h]

theorem exec_shutdown_of_sending {s : State} (h : s.sess.state = .sending) :
    exec .shutdown s = dmaPoll .shutdown s := by
  simp [exec, execShutdown, h]

theorem exec_send_of_sending {s : State} {payload : List Byte} (h : s.sess.state = .sending)
    (hl : payload.length ≤ s.sess.byteCount.toNat) :
    exec (.send payload) s = dmaPoll (.send payload) s := by
  simp [exec, execSend, Session.canSend, h, hl]

/-- A DMA error ends WAIT and SEND with the debug word (43_dma_engine.md R196). -/
theorem afterWaitError_of_ne_shutdown {k : Poller} (hk : k ≠ .shutdown) (g : Word) (s : State) :
    afterWaitError k g s = .next (respond [0x00000104, g] s) := by
  rw [← response_dmaError]
  cases k with
  | wait | send => rfl
  | shutdown => exact absurd rfl hk

/-- Settles O38: the command's own poll and a later one are the same poll, and the response ends it
for WAIT and SEND alike. -/
theorem dmaErrorIsReportedWithDebugWord : Obligations.DmaErrorIsReportedWithDebugWord := by
  intro s i payload v g vs hw hs hr he
  have hpoll {k : Poller} (hk : k ≠ .shutdown) :=
    (dmaPoll_error k hw hr he).trans (afterWaitError_of_ne_shutdown hk g _)
  refine ⟨fun hlen hi => ?_, fun hl hm hq => ?_⟩
  · rcases hi with rfl | rfl
    · exact (exec_wait_of_sending hs).trans (hpoll nofun)
    · exact (exec_send_of_sending hs hlen).trans (hpoll nofun)
  · rcases hq with hq | hq
    · exact (step_of_polling hl hm hq).trans (hpoll nofun)
    · exact (step_of_polling hl hm hq).trans (hpoll nofun)

/-- Settles O39: every poll answers the same, and a command that polls has not responded. -/
theorem activeChannelKeepsTheCommandPolling : Obligations.ActiveChannelKeepsTheCommandPolling := by
  intro s k v vs hw hr he ha
  have hpoll := dmaPoll_active k hw hr he ha
  refine ⟨fun hover => ?_, fun hl hm hq => (step_of_polling hl hm hq).trans hpoll,
    fun hs => ⟨?_, ?_, ?_⟩⟩
  · cases hover.responded.idle
  · rintro rfl
    exact (exec_wait_of_sending hs).trans hpoll
  · rintro rfl
    exact (exec_shutdown_of_sending hs).trans hpoll
  · rintro payload rfl hlen
    exact (exec_send_of_sending hs hlen).trans hpoll

/-! ### DRESET -/

/-- The channel reset of a live session: one write, nothing in flight (20_memory.md R82). -/
theorem dmaReset_of_ready {s : State} (hw : WindowsReady s) :
    dmaReset s = .next { s with
      inflight := false
      trace := s.trace ++
        [.action .dmaReset, .winWrite .dma s.cfg.dmaCs s.cfg.periph.dmaCsReset] } := by
  rw [dmaReset, emit_of_ready hw (a := .dmaReset) trivial]
  refine congrArg Host.Outcome.next ?_
  have henv : (perform .dmaReset s).env = s.env := perform_env_of_writes (by simp [realise])
  apply State.eq_of_fields <;> simp [henv, Action.inflightAfter]

/-- Settles O43: from either state STATE becomes Configured, after the one write. -/
theorem dresetResetsTheChannel : Obligations.DresetResetsTheChannel := by
  intro s hw hs
  have hlive : s.sess.live = true := by simpa [Session.live] using hs
  have hstate : (if s.sess.state = .sending then .configured else s.sess.state) =
      Phase.configured := by
    rcases hs with hs | hs <;> simp [hs]
  rw [exec, execDreset, if_pos hlive, dmaReset_of_ready hw, andThen_next]
  simp only [hstate]
  rfl

/-! ### What SEND, WAIT and DRESET keep -/

/-- No session register but STATE and FAULT is written, and no window record. -/
structure KeepsRegisters (s t : State) : Prop where
  registers : t.sess = { s.sess with state := t.sess.state, fault := t.sess.fault }
  windows : t.win = s.win

theorem KeepsRegisters.refl (s : State) : KeepsRegisters s s := ⟨rfl, rfl⟩

theorem KeepsRegisters.after {s t u : State} (g : KeepsRegisters t u) (h : KeepsRegisters s t) :
    KeepsRegisters s u :=
  ⟨g.registers.trans (by rw [h.registers]), g.windows.trans h.windows⟩

theorem respond_keepsRegisters (ws : List Word) (s : State) : KeepsRegisters s (respond ws s) :=
  ⟨rfl, rfl⟩

theorem emit_keepsRegisters {a : Action} {s t : State} (h : emit a s = .next t) :
    KeepsRegisters s t := by
  obtain ⟨rfl, -⟩ := emit_eq_next h
  exact ⟨by simp, by simp⟩

theorem emitAll_keepsRegisters {as : List Action} {s t : State} (h : emitAll as s = .next t) :
    KeepsRegisters s t := by
  induction as generalizing s with
  | nil => cases h; exact .refl _
  | cons a as ih =>
    obtain ⟨u, hu, ht⟩ := andThen_eq_next h
    exact (ih ht).after (emit_keepsRegisters hu)

theorem memWrites_keepsRegisters {addr : Nat} {vs : List Word} {s t : State}
    (h : memWrites addr vs s = .next t) : KeepsRegisters s t := by
  rw [memWrites_eq_next h]
  exact ⟨rfl, rfl⟩

theorem startSend_keepsRegisters {payload : List Byte} {s t : State}
    (h : startSend payload s = .next t) : KeepsRegisters s t := by
  obtain ⟨a, ha, h⟩ := andThen_eq_next h
  obtain ⟨b, hb, h⟩ := andThen_eq_next h
  cases h
  exact KeepsRegisters.after ⟨rfl, rfl⟩
    ((emitAll_keepsRegisters hb).after (memWrites_keepsRegisters ha))

theorem afterWait_keepsRegisters {k : Poller} (hk : k ≠ .shutdown) {s t : State}
    (h : afterWait k s = .next t) : KeepsRegisters s t := by
  cases k with
  | wait => cases h; exact ⟨rfl, rfl⟩
  | send payload => exact (startSend_keepsRegisters h).after ⟨rfl, rfl⟩
  | shutdown => exact absurd rfl hk

/-- A poll writes FAULT and STATE alone, unless SHUTDOWN's release follows it. -/
theorem dmaPoll_keepsRegisters {k : Poller} (hk : k ≠ .shutdown) {s t : State}
    (h : dmaPoll k s = .next t) : KeepsRegisters s t := by
  obtain ⟨a, ha, h⟩ := andThen_eq_next h
  refine KeepsRegisters.after ?_ (emit_keepsRegisters ha)
  dsimp only at h
  split at h
  · obtain ⟨b, hb, h⟩ := andThen_eq_next h
    rw [afterWaitError_of_ne_shutdown hk] at h
    cases h
    exact KeepsRegisters.after ⟨rfl, rfl⟩ (emit_keepsRegisters hb)
  split at h
  · exact (afterWait_keepsRegisters hk h).after ⟨rfl, rfl⟩
  · cases h
    exact ⟨rfl, rfl⟩

theorem execSend_keepsRegisters {payload : List Byte} {s t : State}
    (h : execSend payload s = .next t) : KeepsRegisters s t := by
  unfold execSend at h
  split at h
  · cases h; exact respond_keepsRegisters _ s
  split at h
  · cases h; exact respond_keepsRegisters _ s
  split at h
  · exact dmaPoll_keepsRegisters (k := .send payload) nofun h
  · exact startSend_keepsRegisters h

theorem execWait_keepsRegisters {s t : State} (h : execWait s = .next t) :
    KeepsRegisters s t := by
  unfold execWait at h
  split at h
  · cases h; exact respond_keepsRegisters _ s
  split at h
  · exact dmaPoll_keepsRegisters (k := .wait) nofun h
  · cases h; exact respond_keepsRegisters _ s

theorem execDreset_keepsRegisters {s t : State} (h : execDreset s = .next t) :
    KeepsRegisters s t := by
  unfold execDreset at h
  split at h
  · obtain ⟨a, ha, h⟩ := andThen_eq_next h
    cases h
    exact KeepsRegisters.after ⟨rfl, rfl⟩ (emit_keepsRegisters ha)
  · cases h; exact respond_keepsRegisters _ s

/-- Settles O51: registers and windows command by command; the mailbox is left alone as O53 says,
and no instruction changes the configuration. -/
theorem transferCommandsKeepRegisters : Obligations.TransferCommandsKeepRegisters := by
  intro i s t hi h
  have hcfg := (exec_keeps i s t h).config
  rcases hi with ⟨payload, rfl⟩ | rfl | rfl
  · obtain ⟨hregs, hwin⟩ := execSend_keepsRegisters h
    exact ⟨hregs, hwin, (execSend_noExchange payload s t h).1, hcfg⟩
  · obtain ⟨hregs, hwin⟩ := execWait_keepsRegisters h
    exact ⟨hregs, hwin, (execWait_noExchange s t h).1, hcfg⟩
  · obtain ⟨hregs, hwin⟩ := execDreset_keepsRegisters h
    exact ⟨hregs, hwin, (execDreset_noExchange s t h).1, hcfg⟩

end Sys2Proof.Machine
end

section
/-! ## BUFSIZE and the sizes it answers (44_session.md R215, R216) -/

namespace Sys2Proof.Machine

/-- A page is not empty. -/
theorem pageSize_pos {c : Config} (hc : c.valid = true) : 0 < c.pageSize := by
  obtain ⟨-, -, -, hp, -⟩ := (Config.valid_iff _).mp hc
  rw [hp]
  exact Nat.two_pow_pos _

/-- `patternBytes` is the least multiple of 4 whose bytes hold every data and gap bit. -/
theorem patternBytes_spec (n f r w : Nat) :
    patternBytes n f r w % 4 = 0 ∧ dataBits n w + gapBits f r w ≤ 8 * patternBytes n f r w ∧
      ∀ p, p % 4 = 0 → dataBits n w + gapBits f r w ≤ 8 * p → patternBytes n f r w ≤ p := by
  obtain ⟨hbytes, hholds, hleast⟩ :=
    roundUp_spec (ceilDiv (dataBits n w + gapBits f r w) 8) (m := 4) (by omega)
  unfold ceilDiv at *
  refine ⟨hbytes, ?_, fun p h4 hp => hleast p h4 (by omega)⟩
  unfold patternBytes ceilDiv
  omega

theorem exec_bufsize_of_ok {n f r w : Word} {s : State} (hw : widthOk w = true)
    (hb : blockBytes s.cfg n.toNat f.toNat r.toNat w.toNat < 2 ^ 32) :
    exec (.bufsize n f r w) s =
      .next (respond [0, trunc32 (patternBytes n.toNat f.toNat r.toNat w.toNat),
        trunc32 (blockBytes s.cfg n.toNat f.toNat r.toNat w.toNat)] s) := by
  dsimp only [exec, execBufsize]
  rw [if_pos (by simpa [hw] using hb)]
  rfl

theorem exec_bufsize_of_not_ok {n f r w : Word} {s : State}
    (h : ¬ (widthOk w = true ∧ blockBytes s.cfg n.toNat f.toNat r.toNat w.toNat < 2 ^ 32)) :
    exec (.bufsize n f r w) s = .next (respond [0x00000405] s) := by
  dsimp only [exec, execBufsize]
  rw [if_neg (by simpa using h)]
  rfl

theorem widthOk_iff (w : Word) : widthOk w = true ↔ 3 ≤ w.toNat ∧ w.toNat ≤ 16 := by
  simp [widthOk]

/-- Settles O17: both sizes are what rounding up gives, the least multiple that is large enough. -/
theorem bufsizeRoundsUp : Obligations.BufsizeRoundsUp := by
  intro s n f r w hc
  obtain ⟨hpb, hholds, hleast⟩ := patternBytes_spec n.toNat f.toNat r.toNat w.toNat
  obtain ⟨hbb, hfits, hsmallest⟩ := roundUp_spec
    (patternBytes n.toNat f.toNat r.toNat w.toNat + s.cfg.descBytes) (pageSize_pos hc)
  refine ⟨patternBytes n.toNat f.toNat r.toNat w.toNat,
    blockBytes s.cfg n.toNat f.toNat r.toNat w.toNat, hpb, hholds, hleast, hbb, hfits, hsmallest,
    fun h3 h16 hlt => exec_bufsize_of_ok ((widthOk_iff w).mpr ⟨h3, h16⟩) hlt, fun hbad => ?_⟩
  refine exec_bufsize_of_not_ok fun ⟨hw, hlt⟩ => ?_
  rw [widthOk_iff] at hw
  omega

/-- More bytes take no fewer words. -/
theorem encodedLength_mono {m n : Nat} (h : m ≤ n) (w : Nat) :
    encodedLength m w ≤ encodedLength n w := by
  have hbits : m * 8 * w ≤ n * 8 * w := Nat.mul_le_mul_right w (Nat.mul_le_mul_right 8 h)
  unfold encodedLength ceilDiv
  omega

/-- Settles O18: the block's size is a multiple of the page size and not 0, as the descriptor is in
it; a shorter payload takes no more words than `n` bytes, which fit the region. -/
theorem encodedDataFitsItsRegion : Obligations.EncodedDataFitsItsRegion := by
  rintro c n f r _ payload p hc hlen rfl
  obtain ⟨-, -, -, -, -, -, -, hdesc, -⟩ := (Config.valid_iff _).mp hc
  obtain ⟨-, hpages, hblock, hwords⟩ := sizes_fit hc n f r p.widthBits
  obtain ⟨-, hbits, -⟩ := patternBytes_spec n f r p.widthBits
  refine ⟨Nat.le_of_dvd (by omega) (Nat.dvd_of_mod_eq_zero hpages), hblock, by omega, ?_⟩
  rw [encodeWords_length]
  exact (encodedLength_mono hlen p.widthBits).trans hwords

end Sys2Proof.Machine
end

section
/-! ## STAT, and what the session commands refuse before any effect (44_session.md R210, R211,
R213) -/

namespace Sys2Proof.Machine

/-! ### STAT -/

/-- A number has no bit at a place beyond its size. -/
theorem trunc32_getLsbD_of_lt {n i : Nat} (h : n < 2 ^ i) : (trunc32 n).getLsbD i = false := by
  rw [trunc32, BitVec.getLsbD_ofNat, Nat.testBit_lt_two_pow h, Bool.and_false]

/-- The two bits of STATE's code (10_state.md R22). -/
theorem phaseCode_getLsbD (p : Phase) (i : Nat) :
    (trunc32 p.code).getLsbD i =
      (decide (i = 0 ∧ (p = .configured ∨ p = .shutDown)) ||
        decide (i = 1 ∧ (p = .sending ∨ p = .shutDown))) := by
  match i with
  | 0 | 1 => cases p <;> rfl
  | i + 2 =>
    have hcode : p.code < 4 := by cases p <;> decide
    have hi := Nat.one_le_two_pow (n := i)
    rw [trunc32_getLsbD_of_lt (by rw [pow_add]; omega)]
    simp

/-- The two bits of MEM_STAGE's code, at places 4 and 5 (10_state.md R31). -/
theorem stageCode_getLsbD (m : MemStage) (i : Nat) :
    (trunc32 (m.code * 16)).getLsbD i =
      (decide (i = 4 ∧ (m = .allocated ∨ m = .mapped)) ||
        decide (i = 5 ∧ (m = .locked ∨ m = .mapped))) := by
  match i with
  | 0 | 1 | 2 | 3 | 4 | 5 => cases m <;> rfl
  | i + 6 =>
    have hcode : m.code < 4 := by cases m <;> decide
    have hi := Nat.one_le_two_pow (n := i)
    rw [trunc32_getLsbD_of_lt (by rw [pow_add]; omega)]
    simp

/-- A flag's word has that flag at its place and nothing else. -/
theorem flagBit_getLsbD (b : Bool) {n : Nat} (hn : n < 32) (i : Nat) :
    (flagBit b n).getLsbD i = (decide (i = n) && b) := by
  cases b with
  | false => simp [flagBit]
  | true =>
    rw [flagBit, if_pos rfl, trunc32, BitVec.getLsbD_ofNat, Nat.testBit_two_pow, Bool.and_true,
      ← Bool.decide_and]
    exact decide_eq_decide.mpr (by omega)

/-- Every bit of STAT's word. -/
theorem statWord_getLsbD (r : Session) (w : Windows) (i : Nat) :
    (statWord r w).getLsbD i =
      (decide (i = 0 ∧ (r.state = .configured ∨ r.state = .shutDown)) ||
        decide (i = 1 ∧ (r.state = .sending ∨ r.state = .shutDown)) ||
        decide (i = 2) && r.patternValid || decide (i = 3) && r.fault ||
        (decide (i = 4 ∧ (r.memStage = .allocated ∨ r.memStage = .mapped)) ||
          decide (i = 5 ∧ (r.memStage = .locked ∨ r.memStage = .mapped))) ||
        decide (i = 8) && w.gpio.isOpen || decide (i = 9) && w.pwm.isOpen ||
        decide (i = 10) && w.cm.isOpen || decide (i = 11) && w.dma.isOpen) := by
  simp only [statWord, BitVec.getLsbD_or, phaseCode_getLsbD, stageCode_getLsbD,
    flagBit_getLsbD, Nat.reduceLT]

/-- Above bit 11 it is 0. -/
theorem statWord_getLsbD_high (r : Session) (w : Windows) {i : Nat} (h : 12 ≤ i) :
    (statWord r w).getLsbD i = false := by
  obtain ⟨k, rfl⟩ := Nat.exists_eq_add_of_le' h
  simp [statWord_getLsbD]

/-- Settles O22: each of the word's parts has its own places. -/
theorem statReportsEveryFlag : Obligations.StatReportsEveryFlag := by
  intro s
  refine ⟨statWord s.sess s.win, rfl, ?_⟩
  have hhigh (i : Nat) (h : 12 ≤ i) := statWord_getLsbD_high s.sess s.win h
  refine ⟨?_, ?_, ?_, ?_, ?_, ?_, ?_, ?_, ?_, ?_, ?_, ?_, hhigh⟩ <;> rw [statWord_getLsbD] <;>
    simp

/-! ### Refusals -/

/-- A command refused in the wrong state, with a bad operand or a bad configuration only responds
(60_exceptions.md R245). -/
theorem raise_wrongState (s : State) :
    raise (.usage .wrongState) s = respond [0x00000305] s := rfl

theorem raise_badOperand (s : State) :
    raise (.usage .badOperand) s = respond [0x00000405] s := rfl

theorem raise_badConfig (s : State) :
    raise (.usage .badConfig) s = respond [0x00000705] s := rfl

theorem raise_noWidth (s : State) : raise .noWidth s = respond [0x00000103] s := rfl

theorem exec_init_of_wrongState {s : State} (h : s.sess.state ≠ .uninitialized)
    (g a ch base : Word) : exec (.init g a ch base) s = .next (respond [0x00000305] s) := by
  rw [exec, execInit, if_pos h, raise_wrongState]

theorem initOperandsOk_iff {c : Config} {g a ch : Word} :
    initOperandsOk c g a ch = true ↔
      ch.toNat < c.periph.pwmChannels ∧ a.toNat < 2 ^ c.periph.gpioFselBits ∧
        4 * c.gpioIndex g + 4 ≤ c.windowLen := by
  simp [initOperandsOk, indexFits, and_assoc]

/-- Settles O26: the three checks one after the other. -/
theorem initChecksBeforeItTouches : Obligations.InitChecksBeforeItTouches := by
  intro s g a ch base
  refine ⟨fun h => exec_init_of_wrongState h g a ch base, fun hu hbad => ?_,
    fun hu hch ha hpin hfit => ?_⟩
  · have hop : ¬ initOperandsOk s.cfg g a ch = true := by rw [initOperandsOk_iff]; omega
    rw [exec, execInit, if_neg (not_not.mpr hu), if_pos hop, raise_badOperand]
  · have hop : initOperandsOk s.cfg g a ch = true := initOperandsOk_iff.mpr ⟨hch, ha, hpin⟩
    rw [exec, execInit, if_neg (not_not.mpr hu), if_neg (not_not.mpr hop), if_pos (by simp [hfit]),
      raise_badConfig]

theorem canConfigure_iff {r : Session} :
    r.canConfigure = true ↔ r.state = .configured ∧ r.patternValid = false := by
  simp [Session.canConfigure]

theorem exec_cfgpat_of_wrongState {s : State}
    (h : ¬ (s.sess.state = .configured ∧ s.sess.patternValid = false)) (n f r z o : Word) :
    exec (.cfgpat n f r z o) s = .next (respond [0x00000305] s) := by
  rw [exec, execCfgpat, if_pos (by rwa [canConfigure_iff]), raise_wrongState]

theorem cfgpatOperandsOk_iff {f z o : Word} :
    cfgpatOperandsOk f z o = true ↔ z.toNat ≤ 100 ∧ o.toNat ≤ 100 ∧ f ≠ 0 := by
  simp [cfgpatOperandsOk, percentOk, and_assoc]

/-- Settles O27: the four checks one after the other, all before the allocation. -/
theorem cfgpatRefusesBeforeItAllocates : Obligations.CfgpatRefusesBeforeItAllocates := by
  intro s n f r z o
  refine ⟨fun h => exec_cfgpat_of_wrongState ?_ n f r z o, fun hs hv => ?_⟩
  · rintro ⟨hs, hv⟩
    simp [hs, hv] at h
  have hcan : ¬ ¬ s.sess.canConfigure = true := not_not.mpr (canConfigure_iff.mpr ⟨hs, hv⟩)
  refine ⟨fun hbad => ?_, fun hz ho hf => ?_⟩
  · have hop : ¬ cfgpatOperandsOk f z o = true := by
      rw [cfgpatOperandsOk_iff]
      rintro ⟨hz, ho, hf⟩
      exact hbad.elim (by omega) fun h => h.elim (by omega) hf
    rw [exec, execCfgpat, if_neg hcan, if_pos hop, raise_badOperand]
  have hop : ¬ ¬ cfgpatOperandsOk f z o = true :=
    not_not.mpr (cfgpatOperandsOk_iff.mpr ⟨hz, ho, hf⟩)
  refine ⟨fun hnone => ?_, fun p hp hbig => ?_⟩ <;>
    rw [exec, execCfgpat, if_neg hcan, if_neg hop]
  · rw [hnone, raise_noWidth]
  · rw [hp]
    exact if_pos hbig

theorem canSend_iff {r : Session} :
    r.canSend = true ↔
      (r.state = .configured ∧ r.patternValid = true) ∨ r.state = .sending := by
  simp [Session.canSend]

/-- Settles O36: the length is checked before the poll. -/
theorem sendRefusesALongBuffer : Obligations.SendRefusesALongBuffer := by
  intro s payload hs hlong
  rw [exec, execSend, if_neg (not_not.mpr (canSend_iff.mpr hs)), if_pos hlong, raise_badOperand]

theorem live_iff {r : Session} : r.live = true ↔ r.state = .configured ∨ r.state = .sending := by
  simp [Session.live]

/-- Settles O44: the state is each command's first check. -/
theorem wrongStateIsRefused : Obligations.WrongStateIsRefused := by
  intro s
  refine ⟨exec_init_of_wrongState, exec_cfgpat_of_wrongState, fun hc hs payload => ?_,
    fun hc hs => ?_, fun hs => ?_⟩
  · have hcan : ¬ s.sess.canSend = true := by rw [canSend_iff]; tauto
    rw [exec, execSend, if_pos hcan, raise_wrongState]
  · have hlive : ¬ s.sess.live = true := by rw [live_iff]; tauto
    rw [exec, execWait, if_pos hlive, exec, execDreset, if_neg hlive, raise_wrongState]
    exact ⟨rfl, rfl⟩
  · rw [exec, execShutdown, if_pos hs, raise_wrongState]

end Sys2Proof.Machine
end

section
/-! ## INIT once its checks are passed (44_session.md R214) -/

namespace Sys2Proof.Machine

/-! ### The windows -/

/-- The sum of two words, modulo 2^32 (00_scope.md R11). -/
theorem trunc32_toNat_add (a b : Word) : trunc32 (a.toNat + b.toNat) = a + b := by
  apply BitVec.eq_of_toNat_eq
  simp [trunc32]

/-- Every WinOpen is granted: the windows are opened one after the other. -/
theorem openWindows_of_granted {ws : List (WinName × Word)} {s : State} {gs : List Bool}
    (h : s.env.grants = List.replicate ws.length true ++ gs) :
    openWindows ws s = (none, ws.foldl (fun t w => winOpen w.1 w.2 t) s) := by
  induction ws generalizing s with
  | nil => rfl
  | cons w ws ih =>
    have hrest : (winOpen w.1 w.2 s).env.grants = List.replicate ws.length true ++ gs := by
      rw [winOpen_env, popGrant_grants, h]
      rfl
    rw [openWindows, if_pos (nextGrant_of h), ih hrest]
    rfl

/-- What an INIT whose window number `k` is refused does to its windows: it opens `k` of them, is
refused the next, and closes those it opened in reverse order. -/
def refusalEvents (len k : Nat) (ws : List (WinName × Word)) : List Event :=
  (ws.take k).map (fun w => Event.winOpen w.1 w.2 len true) ++
    ((ws.drop k).take 1).map (fun w => Event.winOpen w.1 w.2 len false) ++
    (ws.take k).reverse.map (fun w => Event.winClose w.1)

theorem refusalEvents_zero (len : Nat) (w : WinName × Word) (ws : List (WinName × Word)) :
    refusalEvents len 0 (w :: ws) = [.winOpen w.1 w.2 len false] := rfl

theorem refusalEvents_succ (len k : Nat) (w : WinName × Word) (ws : List (WinName × Word)) :
    refusalEvents len (k + 1) (w :: ws) =
      .winOpen w.1 w.2 len true :: (refusalEvents len k ws ++ [.winClose w.1]) := by
  simp [refusalEvents]

/-- A granted WinOpen opens that window and leaves the others. -/
theorem winOpen_granted_get {s : State} (h : s.env.nextGrant = true) (n m : WinName)
    (phys : Word) :
    ((winOpen n phys s).win.get m).isOpen = (if m = n then true else (s.win.get m).isOpen) := by
  rw [winOpen, if_pos h]
  cases n <;> cases m <;> rfl

theorem winClose_trace_of_open {n : WinName} {s : State} (h : (s.win.get n).isOpen = true) :
    (winClose n s).trace = s.trace ++ [.winClose n] := by
  rw [winClose, if_pos h]

/-- The first refusal among windows of different names, number `k`. -/
theorem openWindows_of_refused {ws : List (WinName × Word)} {s : State} {gs : List Bool} {k : Nat}
    (hnames : (ws.map Prod.fst).Nodup) (hk : k < ws.length)
    (h : s.env.grants = List.replicate k true ++ false :: gs) :
    ∃ t, openWindows ws s = (some ws[k].1, t) ∧
      t.trace = s.trace ++ refusalEvents s.cfg.windowLen k ws ∧
      ∀ n ∉ ws.map Prod.fst, (t.win.get n).isOpen = (s.win.get n).isOpen := by
  induction ws generalizing s k with
  | nil => exact absurd hk (Nat.not_lt_zero k)
  | cons w ws ih =>
    rw [List.map_cons, List.nodup_cons] at hnames
    cases k with
    | zero =>
      have hg : s.env.nextGrant = false := nextGrant_of h
      refine ⟨winOpen w.1 w.2 s, by rw [openWindows, if_neg (by simp [hg])]; rfl, ?_, ?_⟩
      · rw [winOpen_trace, hg, refusalEvents_zero]
      · intro n hn
        rw [winOpen, if_neg (by simp [hg])]
    | succ k =>
      have hg : s.env.nextGrant = true := nextGrant_of h
      have hrest : (winOpen w.1 w.2 s).env.grants = List.replicate k true ++ false :: gs := by
        rw [winOpen_env, popGrant_grants, h]
        rfl
      obtain ⟨t, ht, htrace, hothers⟩ := ih hnames.2 (Nat.lt_of_succ_lt_succ hk) hrest
      have hopen : (t.win.get w.1).isOpen = true := by
        rw [hothers _ hnames.1, winOpen_granted_get hg, if_pos rfl]
      refine ⟨winClose w.1 t, by rw [openWindows, if_pos hg, ht]; rfl, ?_, fun n hn => ?_⟩
      · rw [winClose_trace_of_open hopen, htrace, winOpen_trace, winOpen_cfg, hg,
          refusalEvents_succ]
        simp
      · rw [List.map_cons, List.mem_cons, not_or] at hn
        rw [winClose_get, if_neg hn.1, hothers n hn.2, winOpen_granted_get hg, if_neg hn.1]

/-! ### The command -/

section
variable {s : State} {g a ch base : Word} (hstate : s.sess.state = .uninitialized)
  (hop : initOperandsOk s.cfg g a ch = true) (hfit : s.cfg.indicesFit = true)
include hstate hop hfit

/-- The four windows granted: the pin's function is set and the session opened. -/
theorem exec_init_of_granted {t : State}
    (h : openWindows (initWindows s.cfg base) s = (none, t)) :
    exec (.init g a ch base) s = .next (respond [0] { perform (.gpioAlt g a) t with
      sess := { t.sess with
        gpioId := g, altFn := a, channel := ch, periphBase := base, patternValid := false,
        state := .configured } }) := by
  rw [exec, execInit, if_neg (not_not.mpr hstate), if_neg (not_not.mpr hop),
    if_neg (not_not.mpr hfit), h]
  simp only [perform_sess]
  rfl

/-- A window refused: the error names it, and the records are as before. -/
theorem exec_init_of_refused {t : State} {refused : WinName}
    (h : openWindows (initWindows s.cfg base) s = (some refused, t)) :
    exec (.init g a ch base) s =
      .next (respond [trunc32 (refused.cause * 256 + 1)] { t with win := s.win }) := by
  rw [exec, execInit, if_neg (not_not.mpr hstate), if_neg (not_not.mpr hop),
    if_neg (not_not.mpr hfit), h]
  rfl

end

/-- Settles O24: four WinOpens in a row, and the pin's register read, modified and written. -/
theorem initOpensASession : Obligations.InitOpensASession := by
  intro s g a ch base v gs rs hstate hch ha hpin hfit hgrants hreads
  have hopen := openWindows_of_granted (ws := initWindows s.cfg base) (gs := gs) hgrants
  refine ⟨_, exec_init_of_granted hstate (initOperandsOk_iff.mpr ⟨hch, ha, hpin⟩) hfit hopen, ?_⟩
  simp [initWindows, trunc32_toNat_add, winOpen, Windows.set, Env.nextGrant, Env.nextRead, hgrants,
    hreads, Action.inflightAfter]

theorem initWindows_names_nodup (c : Config) (base : Word) :
    ((initWindows c base).map Prod.fst).Nodup := by simp [initWindows]

/-- DeviceError's causes count the windows in INIT's order (60_exceptions.md R241). -/
theorem initWindows_cause (c : Config) (base : Word) {k : Nat}
    (hk : k < (initWindows c base).length) : (initWindows c base)[k].1.cause = k + 1 := by
  change k < 4 at hk
  interval_cases k <;> rfl

/-- Settles O25: the four windows have different names, so each one opened is still open when it is
closed; nothing else is touched before the error is raised. -/
theorem initClosesWhatItOpened : Obligations.InitClosesWhatItOpened := by
  intro s g a ch base k gs hstate hch ha hpin hfit hk hgrants
  obtain ⟨t, ht, htrace, -⟩ :=
    openWindows_of_refused (initWindows_names_nodup s.cfg base) (by exact hk) hgrants
  obtain ⟨hcfg, hsess, hmem, hmbox, -, hinf, hchan⟩ := openWindows_frame (initWindows s.cfg base) s
  rw [ht] at hcfg hsess hmem hmbox hinf hchan
  have hexec := exec_init_of_refused hstate (initOperandsOk_iff.mpr ⟨hch, ha, hpin⟩) hfit ht
  rw [initWindows_cause s.cfg base hk] at hexec
  refine ⟨_, hexec, hsess, rfl, hcfg, hmem, hmbox, hinf, rfl, ?_, ?_⟩
  · have hc : t.chan = s.chan := hchan
    rw [respond_chan]
    simp only [hc]
  · rw [respond_trace]
    simp only [htrace, refusalEvents, List.append_assoc]

end Sys2Proof.Machine
end

section
/-! ## CFGPAT with its block granted (42_mailbox_allocator.md R179, 44_session.md R217) -/

namespace Sys2Proof.Machine

/-- Allocate before its MapPhys, both exchanges answered: handle and bus address are kept. -/
def State.lockedWith (s : State) (a1 a2 : List Word) : State :=
  { s with
    seq := .idle
    mbox := { buf := a2, waiting := false }
    env := s.env.popMbox.popMbox
    sess := { s.sess with
      memHandle := a1.getD 5 0, memBus := a2.getD 5 0, memStage := .locked }
    trace := s.trace ++
      [.mbox mboxIoctl
          (request tagAlloc [s.sess.blockBytes, s.cfg.pageAlignment, s.cfg.cacheFlags] s) (some a1),
        .mbox mboxIoctl (request tagLock [a1.getD 5 0] s) (some a2)] }

theorem allocate_maps {s : State} (j : CfgJob) {a1 a2 : List Word} {as : List MboxAnswer}
    (hm : s.env.mbox = .answered a1 :: .answered a2 :: as) (h1 : a1.length = 9)
    (h2 : a2.length = 7) (hhandle : a1.getD 5 0 ≠ 0) (hbus : a2.getD 5 0 ≠ 0xFFFFFFFF) :
    allocate j s = mapBlock j (s.lockedWith a1 a2) := by
  have halloc := mbAlloc_handle (s := { s with seq := .allocating j }) (a := s.sess.blockBytes)
    (b := s.cfg.pageAlignment) (c := s.cfg.cacheFlags) rfl hm h1 hhandle
  refine (halloc.trans (mbLock_address (as := as) rfl ?_ h2 hbus)).trans (congrArg (mapBlock j) ?_)
  · simp [State.answeredWith, hm]
  · exact State.eq_of_fields rfl rfl rfl rfl rfl rfl rfl rfl rfl (List.append_assoc _ _ _)

/-- Allocate with both exchanges answered and the mapping of a block large enough granted: CFGPAT
goes on to its end. -/
theorem allocate_prepares {s : State} {j : CfgJob} {v : Word} {a1 a2 : List Word}
    {as : List MboxAnswer} {ms : List (Option Word)} (hw : WindowsReady s)
    (hc : s.cfg.valid = true)
    (hf : s.cfg.descBytes + j.patternBytes.toNat ≤ s.sess.blockBytes.toNat)
    (hm : s.env.mbox = .answered a1 :: .answered a2 :: as) (h1 : a1.length = 9)
    (h2 : a2.length = 7) (hhandle : a1.getD 5 0 ≠ 0) (hbus : a2.getD 5 0 ≠ 0xFFFFFFFF)
    (hmap : s.env.maps = some v :: ms) :
    ∃ t, allocate j s = .next t ∧ Prepared (s.lockedWith a1 a2) j v t := by
  rw [allocate_maps j hm h1 h2 hhandle hbus]
  exact mapBlock_prepares (hw.of_eq rfl rfl rfl) hc hf hmap

/-- A pattern's codes and width keep their values in CFGPAT's registers (10_state.md R29). -/
theorem cfgJob_codes {z o : Nat} {p : BitPattern} (hz : z ≤ 100) (ho : o ≤ 100)
    (hp : chooseWidth z o = some p) (n f r : Word) (pb bb : Nat) :
    (cfgJob n f r p pb bb).zeroCode.setWidth 32 = trunc32 p.zeroCode ∧
      (cfgJob n f r p pb bb).oneCode.setWidth 32 = trunc32 p.oneCode ∧
      (cfgJob n f r p pb bb).widthBits.setWidth 32 = trunc32 p.widthBits := by
  obtain ⟨-, hw, hzero, hone, -⟩ := chooseWidth_some hz ho hp
  have hpow : 2 ^ p.widthBits ≤ 2 ^ 16 := Nat.pow_le_pow_right (by omega) hw
  exact ⟨BitVec.setWidth_ofNat_of_le_of_lt (by omega) (by omega),
    BitVec.setWidth_ofNat_of_le_of_lt (by omega) (by omega),
    BitVec.setWidth_ofNat_of_le_of_lt (by omega) (by omega)⟩

/-- The divisor is that of the product of width and frequency, whose width is exact. -/
theorem cfgJob_divisor {z o : Nat} {p : BitPattern} (hz : z ≤ 100) (ho : o ≤ 100)
    (hp : chooseWidth z o = some p) (c : Config) (n f r : Word) (pb bb : Nat) :
    jobDivisor c (cfgJob n f r p pb bb) =
      trunc32 (solveUnscaled c.maxDivisor c.baseClockHz.toNat (p.widthBits * f.toNat)) := by
  obtain ⟨-, hw, -⟩ := chooseWidth_some hz ho hp
  have hbits : (cfgJob n f r p pb bb).widthBits.toNat = p.widthBits := Nat.mod_eq_of_lt (by omega)
  rw [jobDivisor, hbits]
  rfl

/-- Settles O28: past the two exchanges the granted mapping leads to CFGPAT's end. -/
theorem cfgpatPreparesAPattern : Obligations.CfgpatPreparesAPattern := by
  intro s n f r z o v p a1 a2 as ms hc hw hs hv hz ho hf hp hb hm h1 h2 hhandle hbus hmap
  have hrun := execCfgpat_allocates (n := n) (r := r) hs hv hz ho hf hp hb
  have hjob := cfgJob_ok hc n f r hz ho hp hb s.sess
  have hfits := hjob.layout.fits
  rw [← hjob.block] at hfits
  obtain ⟨t, ht, hprep⟩ := allocate_prepares
    (s := { s with sess := { s.sess with
      blockBytes := trunc32 (blockBytes s.cfg n.toNat f.toNat r.toNat p.widthBits) } })
    (hw.of_eq rfl rfl rfl) hc hfits hm h1 h2 hhandle hbus hmap
  refine ⟨t, hrun.trans ht, ?_⟩
  obtain ⟨hzero, hone, hwidth⟩ := cfgJob_codes hz ho hp n f r
    (patternBytes n.toNat f.toNat r.toNat p.widthBits)
    (blockBytes s.cfg n.toNat f.toNat r.toNat p.widthBits)
  rw [← fifoDestAddr_eq, ← cfgJob_divisor hz ho hp s.cfg n f r
    (patternBytes n.toNat f.toNat r.toNat p.widthBits)
    (blockBytes s.cfg n.toNat f.toNat r.toNat p.widthBits)]
  dsimp only
  rw [← hzero, ← hone, ← hwidth]
  refine ⟨hprep.registers, fun _ => hprep.memRead_descriptor hc hfits,
    fun _ => hprep.memRead_region hc hfits, fun _ => hprep.read_outside hc,
    hprep.config, hprep.windows, hprep.inflight, hprep.position,
    congrArg Mailbox.waiting hprep.buffer, hprep.channel, hprep.history.trans ?_⟩
  simp only [State.lockedWith, List.append_assoc]
  rfl

end Sys2Proof.Machine
end

section
/-! ## SEND and WAIT with the transfer ended (43_dma_engine.md R196, 44_session.md R219, R221) -/

namespace Sys2Proof.Machine

/-! ### WAIT -/

/-- Settles O37: in Configured there is nothing to wait for; in Sending the command's own poll and a
later one are the same poll. -/
theorem waitEndsTheTransfer : Obligations.WaitEndsTheTransfer := by
  intro s
  refine ⟨fun hs => ?_, fun v vs hw hs hr he ha => ?_⟩
  · have hlive : ¬ ¬ s.sess.live = true := not_not.mpr (live_iff.mpr (.inl hs))
    rw [exec, execWait, if_neg hlive, if_neg (by simp [hs])]
    rfl
  · have hpoll := dmaPoll_ended .wait hw hr he ha
    exact ⟨(exec_wait_of_sending hs).trans hpoll,
      fun hl hm hq => (step_of_polling hl hm hq).trans hpoll⟩

/-! ### The pattern region -/

/-- What SEND encodes fits the region: BYTE_COUNT bytes do (44_session.md R216). -/
theorem PatternOk.encodeWords_fit {c : Config} {r : Session} (h : PatternOk c r)
    {payload : List Byte} (hl : payload.length ≤ r.byteCount.toNat) :
    (encodeWords payload r.pattern).length ≤ r.patternBytes.toNat / 4 := by
  rw [encodeWords_length]
  exact (encodedLength_mono hl _).trans h.layout.holdsData

/-- Words that fit are filled up with zeros. -/
theorem fillRegion_eq {n : Nat} {words : List Word} (h : words.length ≤ n) :
    fillRegion n words = words ++ List.replicate (n - words.length) 0 := by
  rw [fillRegion, List.take_append, List.take_of_length_le h, List.take_replicate,
    Nat.min_eq_left (Nat.sub_le n words.length)]

theorem fillRegion_getElem {n q : Nat} (words : List Word) (h : q < (fillRegion n words).length) :
    (fillRegion n words)[q] = words.getD q 0 := by
  simp only [fillRegion, List.getElem_take, List.getElem_append, List.getElem_replicate]
  split
  · rename_i hq
    rw [List.getD_eq_getElem _ _ hq]
  · rename_i hq
    rw [List.getD_eq_default _ _ (by omega)]

/-- A word of those written inside the mapped block is read back. -/
theorem memRead_written {t : State} {m : Memory} {base off q : Nat} {vs : List Word}
    (hmem : t.mem = m.writeWords base vs) (hbase : base = blockVirt t.sess off)
    (hm : t.sess.memStage = .mapped) (h4 : off % 4 = 0)
    (hf : off + 4 * vs.length ≤ t.sess.blockBytes.toNat) (hq : q < vs.length) :
    memRead (base + 4 * q) t = some vs[q] := by
  have hread := memRead_at_offset (s := t) (k := off + 4 * q) hm (by omega) (by omega)
  rw [blockVirt, ← Nat.add_assoc, ← blockVirt, ← hbase, hmem] at hread
  exact hread.trans (Memory.readWord_writeWords m base vs hq)

/-! ### SEND -/

/-- SEND once its wait is over, STATE Configured, after these events. -/
def State.waited (s : State) (q : Seq) (b : Bool) (e : Env) (es : List Event) : State :=
  { s with
    sess := { s.sess with state := .configured }
    seq := q
    inflight := b
    env := e
    trace := s.trace ++ es }

/-- In Configured there is no wait. -/
theorem State.eq_waited {s : State} (h : s.sess.state = .configured) :
    s = s.waited s.seq s.inflight s.env [] := by
  apply State.eq_of_fields <;> simp [State.waited, ← h]

/-- Settles O35: the region is written and the transfer started from Configured, where the wait of a
SEND from Sending ends too. -/
theorem sendRewritesRegionAndStarts : Obligations.SendRewritesRegionAndStarts := by
  intro s payload hat hlen words n base sent
  have hc := hat.steady.config
  obtain ⟨-, -, -, -, -, -, h4, -⟩ := (Config.valid_iff _).mp hc
  have hsent (q : Seq) (b : Bool) (e : Env) (es : List Event) (hv : s.sess.patternValid = true) :
      sent (startSend payload (s.waited q b e es)) es := by
    have hp := hat.steady.pattern hv
    have hwhole := hp.layout.wholeWords
    have hfits := hp.layout.fits
    have hwords : words.length ≤ n := hp.encodeWords_fit hlen
    have hmapped := hat.settled.valid.mp hv
    have hrun := startSend_eq (s := s.waited q b e es) payload
      ((hat.steady.opened (hat.settled.live hv)).of_eq rfl rfl rfl) hc hmapped
      (by obtain ⟨a, b, c, d⟩ := hp; exact ⟨a, b, c, d⟩)
    refine ⟨_, hrun, rfl, rfl, fun k hk => ?_, fun a ha => ?_, rfl, rfl, rfl, rfl, rfl, ?_⟩
    · rw [← fillRegion_getElem words (by rwa [fillRegion_length])]
      refine memRead_written (m := s.mem) (off := s.cfg.descBytes) ?_ ?_ ?_ h4 ?_ _
      · rfl
      · rfl
      · exact hmapped
      · rw [fillRegion_length]
        exact (by omega : s.cfg.descBytes + 4 * n ≤ _).trans hfits
    · refine Memory.read_writeWords_other _ _ _ ?_
      rw [fillRegion_length]
      exact ha.imp id fun ha => (by omega : base + 4 * n ≤ _).trans ha
    · rw [← fillRegion_eq hwords]
      rfl
  refine ⟨fun hs hv => ?_, fun v vs hs hr he ha => ?_⟩
  · have hrun : exec (.send payload) s = startSend payload s := by
      rw [exec, execSend, if_neg (not_not.mpr (canSend_iff.mpr (.inl ⟨hs, hv⟩))),
        if_neg (by omega), if_neg (by simp [hs])]
    rw [hrun, State.eq_waited hs]
    exact hsent _ _ _ _ hv
  · have hv := hat.settled.sending hs
    have hpoll := dmaPoll_ended (.send payload)
      (hat.steady.opened (hat.settled.live hv)) hr he ha
    refine ⟨?_, fun hq => ?_⟩
    · rw [exec_send_of_sending hs hlen, hpoll]
      exact hsent _ _ _ _ hv
    · rw [step_of_polling hat.steady.noReset hat.notWaiting hq, hpoll]
      exact hsent _ _ _ _ hv

end Sys2Proof.Machine
end

section
/-! ## SHUTDOWN from its four legal situations (42_mailbox_allocator.md R181, 44_session.md R222) -/

namespace Sys2Proof.Machine

/-! ### Its end -/

/-- A SHUTDOWN begun in `s` has ended in `t` with this FAULT flag, response and events. -/
structure EndsShutdown (s : State) (fault : Bool) (w : List Word) (es : List Event) (t : State) :
    Prop where
  responded : Responded t
  clean : Clean t
  registers : t.sess = { s.sess with
    state := .shutDown, patternValid := false, memStage := .none, fault := fault }
  config : t.cfg = s.cfg
  memory : t.mem = s.mem
  channel : t.chan = { s.chan with busy := false, response := some w }
  history : t.trace = s.trace ++ es

/-- The end itself, once everything held has been given back in `u`. -/
theorem finishShutdown_ends {s u : State} {n : Option CmdError} {fault : Bool} {g : MemStage}
    {es fs : List Event} (hsess : u.sess = { s.sess with memStage := g, fault := fault })
    (hcfg : u.cfg = s.cfg) (hmem : u.mem = s.mem) (hchan : u.chan = s.chan)
    (hwait : u.mbox.waiting = false) (hquiet : inflightAfterShutdown n u.inflight = false)
    (htrace : u.trace = s.trace ++ es) (hclose : (finishShutdown n u).trace = u.trace ++ fs) :
    EndsShutdown s fault (notedResponse n) (es ++ fs) (finishShutdown n u) where
  responded := finishShutdown_responded n hwait
  clean := finishShutdown_clean n hquiet
  registers := by rw [finishShutdown_sess, hsess]
  config := by rw [finishShutdown_cfg, hcfg]
  memory := by rw [finishShutdown_mem, hmem]
  channel := by rw [finishShutdown_chan, hchan]
  history := by rw [hclose, htrace, List.append_assoc]

/-! ### With no block held -/

theorem exec_shutdown_of_not_sending {s : State} (h1 : s.sess.state ≠ .shutDown)
    (h2 : s.sess.state ≠ .sending) : exec .shutdown s = leaveSession none s := by
  rw [exec, execShutdown, if_neg h1, if_neg h2]

/-- Between commands no block is held without a pattern (10_state.md R24). -/
theorem Settled.stage_none {r : Session} (h : Settled r) (hv : r.patternValid = false) :
    r.memStage = .none :=
  h.stage.resolve_right fun hm => absurd (h.valid.mpr hm) (by simp [hv])

/-- Outside Sending nothing is in flight (44_session.md R212). -/
theorem Steady.quiet {s : State} (h : Steady s) (hs : s.sess.state ≠ .sending) :
    s.inflight = false := by
  simpa using mt h.inflight hs

/-! ### With the block held, once the wait is over -/

/-- SHUTDOWN's state after its wait: what polls have changed of `s`, with these events. -/
def State.polled (s : State) (q : Seq) (fault b : Bool) (e : Env) (es : List Event) : State :=
  { s with
    sess := { s.sess with fault := fault }
    seq := q
    inflight := b
    env := e
    trace := s.trace ++ es }

theorem State.eq_polled (s : State) : s = s.polled s.seq s.sess.fault s.inflight s.env [] := by
  apply State.eq_of_fields <;> simp [State.polled]

/-- What SHUTDOWN does to a session that holds its block, before its windows are closed. -/
def leavingEvents (s : State) (x y : MboxAnswer) : List Event :=
  disableEvents s.cfg s.sess.channel ++
    .unmapPhys s.sess.memVirt s.sess.blockBytes :: releaseEvents s.cfg s.sess.memHandle x y

/-- Both exchanges met, answered or failed: everything is given back, and the response is the one
the errors noted give. -/
theorem AtCommand.leaveSession_ends {s : State} (h : AtCommand s) (hv : s.sess.patternValid = true)
    {x y : MboxAnswer} {as : List MboxAnswer} (hx : exchangeMet 7 x = true)
    (hy : exchangeMet 7 y = true) (n : Option CmdError) (q : Seq) (fault : Bool) {b : Bool}
    {e : Env} (es : List Event) (hm : e.mbox = x :: y :: as)
    (hb : inflightAfterShutdown n b = false) :
    let w := notedResponse (noteFailure n (x = .failed ∨ y = .failed))
    ∃ t, leaveSession n (s.polled q fault b e es) = .next t ∧
      EndsShutdown s fault w (es ++ leavingEvents s x y ++ closingEvents w) t := by
  intro w
  have hw : WindowsReady (s.polled q fault b e es) :=
    (h.steady.opened (h.settled.live hv)).of_eq rfl rfl rfl
  obtain ⟨u, q', hrun, hcfg, hsess, hwin, hmem, hinf, hchan, hwait, htrace⟩ := release_of_mapped
    (s := { s.polled q fault b e es with
      trace := (s.polled q fault b e es).trace ++ disableEvents s.cfg s.sess.channel })
    n (h.settled.valid.mp hv) hm hx hy
  rw [afterBoth_eq_noteFailure] at hrun
  refine ⟨_, (leaveSession_open n hw).trans (congrArg Host.Outcome.next hrun), ?_⟩
  have hopen : WindowsReady { u with seq := q' } := hw.of_eq hcfg hwin (by rw [hsess])
  refine finishShutdown_ends hsess hcfg hmem hchan hwait ?_ ?_ (finishShutdown_trace_open _ hopen)
  · rw [inflightAfterShutdown_noteFailure]
    exact hinf ▸ hb
  · rw [htrace]
    simp [State.polled, leavingEvents]

/-- A poll of SHUTDOWN that finds the transfer ended. -/
theorem dmaPoll_shutdown_ended {s : State} {v : Word} {vs : List Word} (hw : WindowsReady s)
    (hr : s.env.reads = v :: vs) (he : v &&& s.cfg.periph.dmaCsError = 0)
    (ha : v &&& s.cfg.periph.dmaCsActive = 0) :
    dmaPoll .shutdown s = leaveSession none (s.polled .idle s.sess.fault false s.env.popRead
      [.action .dmaReadCs, .winRead .dma s.cfg.dmaCs v]) :=
  dmaPoll_ended .shutdown hw hr he ha

/-- One that meets a DMA error. -/
theorem dmaPoll_shutdown_error {s : State} {v g : Word} {vs : List Word} (hw : WindowsReady s)
    (hr : s.env.reads = v :: g :: vs) (he : v &&& s.cfg.periph.dmaCsError ≠ 0) :
    dmaPoll .shutdown s = leaveSession (some (.dmaError g))
      (s.polled .idle true s.inflight s.env.popRead.popRead
        [.action .dmaReadCs, .winRead .dma s.cfg.dmaCs v,
          .action .dmaReadDebug, .winRead .dma s.cfg.dmaDebug g]) :=
  dmaPoll_error .shutdown hw hr he

/-- The command's own poll in Sending, and the later ones of its steps, are the same poll. -/
theorem AtCommand.shutdown_polls {s : State} (h : AtCommand s) (hs : s.sess.state = .sending) :
    exec .shutdown s = dmaPoll .shutdown s ∧
      (s.seq = .polling .shutdown → step s = dmaPoll .shutdown s) :=
  ⟨exec_shutdown_of_sending hs, step_of_polling h.steady.noReset h.notWaiting⟩

/-- Settles O41: from Configured there is no wait; from Sending the poll's outcome is what the end
begins with, DMA error or none. -/
theorem shutdownReportsItsFirstError : Obligations.ShutdownReportsItsFirstError := by
  intro s x y as hat hx hy hm steps ends
  have hends {n : Option CmdError} {q : Seq} {fault b : Bool} {e : Env} {es : List Event}
      (hv : s.sess.patternValid = true) (hme : e.mbox = x :: y :: as)
      (hb : inflightAfterShutdown n b = false) :
      ends (leaveSession n (s.polled q fault b e es)) fault (n.map CmdError.response) es := by
    obtain ⟨t, hrun, hend⟩ := hat.leaveSession_ends hv hx hy n q fault es hme hb
    obtain ⟨herror, hfailed, hok⟩ := notedResponse_noteFailure n (x = .failed ∨ y = .failed)
    refine ⟨t, _, hrun, hend.responded, hend.clean, hend.registers, hend.config, hend.memory,
      hend.channel, fun w hw => ?_, fun hn => hfailed (Option.map_eq_none_iff.mp hn),
      fun hn h1 h2 => hok (Option.map_eq_none_iff.mp hn) (not_or.mpr ⟨h1, h2⟩), ?_⟩
    · obtain ⟨c, hc, rfl⟩ := Option.map_eq_some_iff.mp hw
      exact herror c hc
    · rw [hend.history]
      simp [leavingEvents, steps]
  have hopen (hs : s.sess.state = .sending) : WindowsReady s :=
    hat.steady.opened (live_iff.mpr (.inr hs))
  refine ⟨fun hs hv => ?_, fun v vs hs hr he ha => ?_, fun v g vs hs hr he => ?_⟩
  · rw [exec_shutdown_of_not_sending (by simp [hs]) (by simp [hs]), State.eq_polled s]
    exact hends (n := none) hv hm (hat.steady.quiet (by simp [hs]))
  · obtain ⟨hexec, hstep⟩ := hat.shutdown_polls hs
    rw [dmaPoll_shutdown_ended (hopen hs) hr he ha] at hexec hstep
    refine ⟨?_, fun hq => ?_⟩
    · rw [hexec]
      exact hends (n := none) (hat.settled.sending hs) hm rfl
    · rw [hstep hq]
      exact hends (n := none) (hat.settled.sending hs) hm rfl
  · obtain ⟨hexec, hstep⟩ := hat.shutdown_polls hs
    rw [dmaPoll_shutdown_error (hopen hs) hr he] at hexec hstep
    rw [← response_dmaError]
    refine ⟨?_, fun hq => ?_⟩
    · rw [hexec]
      exact hends (n := some (.dmaError g)) (hat.settled.sending hs) hm rfl
    · rw [hstep hq]
      exact hends (n := some (.dmaError g)) (hat.settled.sending hs) hm rfl

/-- Settles O40: with the block held as O41 says; with none held the end follows at once, after the
PWM and the clock where the windows are open. -/
theorem shutdownReleasesInReverseOrder : Obligations.ShutdownReleasesInReverseOrder := by
  intro s a b as hat ha hb release disable ends
  have hends {run : Res} {t : State} {w : List Word} {es : List Event} (hrun : run = .next t)
      (hw : w = [0]) (h : EndsShutdown s s.sess.fault w es t) : ends run es := by
    subst hw
    exact ⟨t, hrun, h.responded, h.clean, h.registers, h.config, h.memory, h.channel, h.history⟩
  have hheld {q : Seq} {e : Env} {es : List Event} {i : Bool} (hv : s.sess.patternValid = true)
      (hm : e.mbox = .answered a :: .answered b :: as) (hi : i = false) :
      ends (leaveSession none (s.polled q s.sess.fault i e es))
        (es ++ disable ++ release ++ closingEvents [0]) := by
    have hok : notedResponse (noteFailure none (MboxAnswer.answered a = .failed ∨
        MboxAnswer.answered b = .failed)) = [0] := (notedResponse_noteFailure _ _).2.2 rfl (by simp)
    obtain ⟨t, hrun, hend⟩ := hat.leaveSession_ends hv (x := .answered a) (y := .answered b)
      (by simp [exchangeMet, ha]) (by simp [exchangeMet, hb]) none q s.sess.fault es hm hi
    rw [hok] at hend
    rw [show es ++ disable ++ release = es ++ leavingEvents s _ _ from List.append_assoc _ _ _]
    exact hends hrun rfl hend
  have hopen (hl : s.sess.live = true) : WindowsReady s := hat.steady.opened hl
  refine ⟨fun hs => ?_, fun hs hv => ?_, fun hs hv hm => ?_, fun v vs hs hm hr he ha => ?_⟩
  · have hlive : s.sess.live = false := by simp [Session.live, hs]
    have hv : s.sess.patternValid = false := by simpa [hlive] using hat.settled.live
    have hclosed := hat.steady.closed hlive
    rw [exec_shutdown_of_not_sending (by simp [hs]) (by simp [hs]), leaveSession_closed _ hclosed,
      startRelease_none (hat.settled.stage_none hv)]
    exact hends rfl rfl (finishShutdown_ends (n := none) (es := []) rfl rfl rfl rfl hat.notWaiting
      (hat.steady.quiet (by simp [hs])) (by simp) (finishShutdown_trace_closed _ hclosed))
  · have hready := hopen (live_iff.mpr (.inl hs))
    rw [exec_shutdown_of_not_sending (by simp [hs]) (by simp [hs]), leaveSession_open _ hready,
      startRelease_none (by exact hat.settled.stage_none hv)]
    exact hends rfl rfl (finishShutdown_ends (n := none) rfl rfl rfl rfl hat.notWaiting
      (hat.steady.quiet (by simp [hs])) rfl
      (finishShutdown_trace_open _ (by exact hready.of_eq rfl rfl rfl)))
  · rw [exec_shutdown_of_not_sending (by simp [hs]) (by simp [hs]), State.eq_polled s]
    exact hheld hv hm (hat.steady.quiet (by simp [hs]))
  · obtain ⟨hexec, hstep⟩ := hat.shutdown_polls hs
    rw [dmaPoll_shutdown_ended (hopen (live_iff.mpr (.inr hs))) hr he ha] at hexec hstep
    have hv := hat.settled.sending hs
    refine ⟨?_, fun hq => ?_⟩
    · rw [hexec]
      exact hheld hv hm rfl
    · rw [hstep hq]
      exact hheld hv hm rfl

end Sys2Proof.Machine
end

section
/-! ## What SHUTDOWN leaves of registers and windows (44_session.md R222) -/

namespace Sys2Proof.Machine

/-- No session register but STATE, PATTERN_VALID, MEM_STAGE and FAULT is written, and the window
records keep their bases and lengths. -/
structure KeepsSession (s t : State) : Prop where
  registers : t.sess = { s.sess with
    state := t.sess.state, patternValid := t.sess.patternValid, memStage := t.sess.memStage,
    fault := t.sess.fault }
  windows : ∀ n, (t.win.get n).phys = (s.win.get n).phys ∧ (t.win.get n).len = (s.win.get n).len

/-- With the window records as they were. -/
theorem KeepsSession.of_win_eq {s t : State} (hw : t.win = s.win)
    (hr : t.sess = { s.sess with
      state := t.sess.state, patternValid := t.sess.patternValid, memStage := t.sess.memStage,
      fault := t.sess.fault }) : KeepsSession s t :=
  ⟨hr, fun n => by rw [hw]; exact ⟨rfl, rfl⟩⟩

theorem KeepsSession.refl (s : State) : KeepsSession s s := .of_win_eq rfl rfl

theorem KeepsSession.after {s t u : State} (g : KeepsSession t u) (h : KeepsSession s t) :
    KeepsSession s u :=
  ⟨g.registers.trans (by rw [h.registers]), fun n =>
    ⟨(g.windows n).1.trans (h.windows n).1, (g.windows n).2.trans (h.windows n).2⟩⟩

theorem KeepsRegisters.keepsSession {s t : State} (h : KeepsRegisters s t) : KeepsSession s t :=
  .of_win_eq h.windows (h.registers.trans (by rw [h.registers]))

theorem winClose_keepsSession (n : WinName) (s : State) : KeepsSession s (winClose n s) := by
  refine ⟨by rw [winClose_sess], fun m => ?_⟩
  unfold winClose
  split
  · cases n <;> cases m <;> exact ⟨rfl, rfl⟩
  · exact ⟨rfl, rfl⟩

theorem finishShutdown_keepsSession (n : Option CmdError) (s : State) :
    KeepsSession s (finishShutdown n s) := by
  have hclose := (winClose_keepsSession .gpio _).after <| (winClose_keepsSession .pwm _).after <|
    (winClose_keepsSession .cm _).after (winClose_keepsSession .dma s)
  refine KeepsSession.after ?_ hclose
  unfold finishShutdown
  cases n with
  | none => exact .of_win_eq rfl rfl
  | some e => exact .of_win_eq rfl rfl

/-! ### SHUTDOWN's release -/

theorem mbFree_keepsSession {s : State} {n : Option CmdError} (h : Word)
    (hq : s.seq = .freeing (.shutdown n)) : KeepsSession s (mbFree h s) := by
  have hcall : KeepsSession s (mboxCall (request tagFree [h] s) s) := .of_win_eq rfl rfl
  rcases mbFree_cases h s with ⟨e, -⟩ | ⟨r, hr, -, e⟩ <;> rw [e]
  · exact hcall
  · obtain rfl : Releaser.shutdown n = r := by simpa using hq.symm.trans hr
    rw [afterExchange_shutdown]
    exact (finishShutdown_keepsSession _ _).after hcall

theorem mbUnlock_keepsSession {s : State} {n : Option CmdError} (h : Word)
    (hq : s.seq = .unlocking (.shutdown n)) : KeepsSession s (mbUnlock h s) := by
  rcases mbUnlock_cases h s with ⟨e, -⟩ | ⟨r, hr, -, e⟩ <;> rw [e]
  · exact .of_win_eq rfl rfl
  · obtain rfl : Releaser.shutdown n = r := by simpa using hq.symm.trans hr
    rw [afterExchange_shutdown]
    exact (mbFree_keepsSession _ rfl).after (.of_win_eq rfl rfl)

theorem startRelease_keepsSession (n : Option CmdError) (s : State) :
    KeepsSession s (startRelease (.shutdown n) s) := by
  unfold startRelease
  split
  · exact finishShutdown_keepsSession n s
  · exact (mbFree_keepsSession _ rfl).after (.of_win_eq rfl rfl)
  · exact (mbUnlock_keepsSession _ rfl).after (.of_win_eq rfl rfl)
  · exact (mbUnlock_keepsSession _ rfl).after (.of_win_eq rfl rfl)

/-! ### The command -/

theorem emit_keepsSession {a : Action} {s t : State} (h : emit a s = .next t) :
    KeepsSession s t := (emit_keepsRegisters h).keepsSession

theorem emitIf_keepsSession {b : Bool} {a : Action} {s t : State}
    (h : (if b then emit a s else .next s) = .next t) : KeepsSession s t := by
  split at h
  · exact emit_keepsSession h
  · cases h; exact .refl _

theorem leaveSession_keepsSession {n : Option CmdError} {s t : State}
    (h : leaveSession n s = .next t) : KeepsSession s t := by
  obtain ⟨a, ha, h⟩ := andThen_eq_next h
  obtain ⟨b, hb, h⟩ := andThen_eq_next h
  cases h
  exact (startRelease_keepsSession n b).after
    ((emitIf_keepsSession hb).after (emitIf_keepsSession ha))

theorem dmaPoll_shutdown_keepsSession {s t : State} (h : dmaPoll .shutdown s = .next t) :
    KeepsSession s t := by
  obtain ⟨a, ha, h⟩ := andThen_eq_next h
  refine KeepsSession.after ?_ (emit_keepsSession ha)
  dsimp only at h
  split at h
  · obtain ⟨b, hb, h⟩ := andThen_eq_next h
    refine (leaveSession_keepsSession h).after (KeepsSession.after ?_ (emit_keepsSession hb))
    exact .of_win_eq rfl rfl
  split at h
  · exact (leaveSession_keepsSession h).after (.of_win_eq rfl rfl)
  · cases h
    exact .of_win_eq rfl rfl

/-- Settles O52: polls, actions and SHUTDOWN's release write those four registers and the open flags
alone, and no instruction changes the configuration. -/
theorem shutdownKeepsOtherRegisters : Obligations.ShutdownKeepsOtherRegisters := by
  intro s t h
  have hkeeps : KeepsSession s t := by
    replace h : execShutdown s = .next t := h
    unfold execShutdown at h
    split at h
    · cases h; exact .of_win_eq rfl rfl
    split at h
    · exact dmaPoll_shutdown_keepsSession h
    · exact leaveSession_keepsSession h
  exact ⟨hkeeps.registers, hkeeps.windows, (exec_keeps .shutdown s t h).config⟩

end Sys2Proof.Machine
end

section
/-! ## Where STATE moves (44_session.md R212) -/

namespace Sys2Proof.Machine

/-- R212's table: STATE in `t` after a run from STATE `p`, by what was run. A run that moves STATE
responds OK, SHUTDOWN apart. -/
inductive Moves (p : Phase) (runs : Instr → Prop) (waited shutsDown : Prop) (t : State) : Prop
  | stays (kept : t.sess.state = p)
  | opens {g a ch base : Word} (before : p = .uninitialized) (after : t.sess.state = .configured)
      (run : runs (.init g a ch base)) (ok : t.chan.response = some [0])
  | starts {payload : List Byte} (before : p = .configured) (after : t.sess.state = .sending)
      (run : runs (.send payload)) (ok : t.chan.response = some [0])
  | ends (before : p = .sending) (after : t.sess.state = .configured)
      (run : runs .wait ∨ runs .dreset ∨ waited) (ok : t.chan.response = some [0])
  | leaves (after : t.sess.state = .shutDown) (run : shutsDown)

/-- What is known of a run may be said in other words. -/
theorem Moves.imp {p : Phase} {t : State} {runs runs' : Instr → Prop}
    {waited waited' shutsDown shutsDown' : Prop} (h : Moves p runs waited shutsDown t)
    (hr : ∀ i, runs i → runs' i) (hw : waited → waited') (hd : shutsDown → shutsDown') :
    Moves p runs' waited' shutsDown' t := by
  cases h with
  | stays kept => exact .stays kept
  | opens before after run ok => exact .opens before after (hr _ run) ok
  | starts before after run ok => exact .starts before after (hr _ run) ok
  | ends before after run ok =>
    exact .ends before after (run.imp (hr _) (Or.imp (hr _) hw)) ok
  | leaves after run => exact .leaves after (hd run)

/-! ### Operations that leave STATE -/

theorem emit_state {a : Action} {s t : State} (h : emit a s = .next t) :
    t.sess.state = s.sess.state := by
  obtain ⟨rfl, -⟩ := emit_eq_next h
  rw [perform_sess]

theorem emitIf_state {b : Bool} {a : Action} {s t : State}
    (h : (if b then emit a s else .next s) = .next t) : t.sess.state = s.sess.state := by
  split at h
  · exact emit_state h
  · cases h; rfl

theorem emitAll_state {as : List Action} {s t : State} (h : emitAll as s = .next t) :
    t.sess.state = s.sess.state := by
  induction as generalizing s with
  | nil => cases h; rfl
  | cons a as ih =>
    obtain ⟨u, hu, ht⟩ := andThen_eq_next h
    exact (ih ht).trans (emit_state hu)

theorem memWrites_state {addr : Nat} {vs : List Word} {s t : State}
    (h : memWrites addr vs s = .next t) : t.sess.state = s.sess.state := by
  rw [memWrites_eq_next h]

/-! ### The release chain (42_mailbox_allocator.md R180, R181) -/

/-- A release leaves STATE, or is SHUTDOWN's and has ended. -/
theorem finishRelease_state (r : Releaser) (s : State) :
    (finishRelease r s).sess.state = s.sess.state ∨
      (finishRelease r s).sess.state = .shutDown ∧ ∃ n, r = .shutdown n := by
  cases r with
  | rollBack e => exact .inl rfl
  | shutdown n => exact .inr ⟨by rw [finishRelease, finishShutdown_sess], n, rfl⟩

/-- An exchange does not change on whose behalf the release is made. -/
theorem shutdown_of_afterExchange {r : Releaser} {a : MboxAnswer} {n : Option CmdError}
    (h : r.afterExchange a = .shutdown n) : ∃ m, r = .shutdown m := by
  cases r with
  | rollBack e => rw [afterExchange_rollBack] at h; cases h
  | shutdown m => exact ⟨m, rfl⟩

theorem mbFree_state (h : Word) (s : State) :
    (mbFree h s).sess.state = s.sess.state ∨
      (mbFree h s).sess.state = .shutDown ∧ ∃ n, s.seq = .freeing (.shutdown n) := by
  rcases mbFree_cases h s with ⟨e, -⟩ | ⟨r, hr, -, e⟩ <;> rw [e]
  · exact .inl rfl
  · refine (finishRelease_state _ _).imp id fun ⟨hdown, n, hn⟩ => ⟨hdown, ?_⟩
    obtain ⟨m, rfl⟩ := shutdown_of_afterExchange hn
    exact ⟨m, hr⟩

theorem mbUnlock_state (h : Word) (s : State) :
    (mbUnlock h s).sess.state = s.sess.state ∨
      (mbUnlock h s).sess.state = .shutDown ∧ ∃ n, s.seq = .unlocking (.shutdown n) := by
  rcases mbUnlock_cases h s with ⟨e, -⟩ | ⟨r, hr, -, e⟩ <;> rw [e]
  · exact .inl rfl
  · refine (mbFree_state _ _).imp id fun ⟨hdown, n, hn⟩ => ⟨hdown, ?_⟩
    obtain ⟨m, rfl⟩ := shutdown_of_afterExchange (Seq.freeing.inj hn)
    exact ⟨m, hr⟩

theorem startRelease_state (r : Releaser) (s : State) :
    (startRelease r s).sess.state = s.sess.state ∨
      (startRelease r s).sess.state = .shutDown ∧ ∃ n, r = .shutdown n := by
  unfold startRelease
  split
  · exact finishRelease_state r s
  · exact (mbFree_state _ _).imp id fun ⟨hdown, n, hn⟩ => ⟨hdown, n, Seq.freeing.inj hn⟩
  · exact (mbUnlock_state _ _).imp id fun ⟨hdown, n, hn⟩ => ⟨hdown, n, Seq.unlocking.inj hn⟩
  · exact (mbUnlock_state _ _).imp id fun ⟨hdown, n, hn⟩ => ⟨hdown, n, Seq.unlocking.inj hn⟩

/-- A CFGPAT that fails leaves STATE (44_session.md R218). -/
theorem rollBack_state (e : CmdError) (s : State) :
    (startRelease (.rollBack e) s).sess.state = s.sess.state :=
  (startRelease_state _ s).resolve_right fun ⟨_, _, hn⟩ => nomatch hn

/-! ### The allocation chain (R179) -/

theorem finishConfigure_state {j : CfgJob} {s t : State} (h : finishConfigure j s = .next t) :
    t.sess.state = s.sess.state := by
  obtain ⟨a, ha, h⟩ := andThen_eq_next h
  obtain ⟨b, hb, h⟩ := andThen_eq_next h
  obtain ⟨d, hd, h⟩ := andThen_eq_next h
  cases h
  exact (memWrites_state hd).trans ((emitAll_state hb).trans (memWrites_state ha))

theorem mapBlock_state {j : CfgJob} {s t : State} (h : mapBlock j s = .next t) :
    t.sess.state = s.sess.state := by
  unfold mapBlock at h
  dsimp only at h
  split at h
  · cases h
    exact rollBack_state _ _
  · exact (finishConfigure_state h :)

theorem mbLock_state {hd : Word} {s t : State} (h : mbLock hd s = .next t) :
    t.sess.state = s.sess.state := by
  unfold mbLock at h
  dsimp only at h
  split at h
  · unfold afterLock at h
    split at h
    · cases h; rfl
    · cases h; exact rollBack_state _ _
    · split at h
      · cases h; exact rollBack_state _ _
      · exact (mapBlock_state h :)
  · cases h; rfl

theorem mbAlloc_state {size align flags : Word} {s t : State}
    (h : mbAlloc size align flags s = .next t) : t.sess.state = s.sess.state := by
  unfold mbAlloc at h
  dsimp only at h
  split at h
  · unfold afterAlloc at h
    split at h
    · cases h; rfl
    · cases h; exact rollBack_state _ _
    · split at h
      · cases h; exact rollBack_state _ _
      · exact (mbLock_state h :)
  · cases h; rfl

theorem execCfgpat_state {n f r z o : Word} {s t : State}
    (h : execCfgpat n f r z o s = .next t) : t.sess.state = s.sess.state := by
  unfold execCfgpat at h
  split at h
  · cases h; rfl
  split at h
  · cases h; rfl
  split at h
  · cases h; rfl
  dsimp only at h
  split at h
  · cases h; rfl
  · exact (mbAlloc_state h :)

/-! ### DmaWait and what follows it (43_dma_engine.md R196) -/

/-- SEND after its wait ends in Sending, and OK. -/
theorem startSend_state {payload : List Byte} {s t : State}
    (h : startSend payload s = .next t) :
    t.sess.state = .sending ∧ t.chan.response = some [0] := by
  obtain ⟨a, ha, h⟩ := andThen_eq_next h
  obtain ⟨b, hb, h⟩ := andThen_eq_next h
  cases h
  exact ⟨rfl, rfl⟩

theorem leaveSession_state {n : Option CmdError} {s t : State}
    (h : leaveSession n s = .next t) :
    t.sess.state = s.sess.state ∨ t.sess.state = .shutDown := by
  obtain ⟨a, ha, h⟩ := andThen_eq_next h
  obtain ⟨b, hb, h⟩ := andThen_eq_next h
  cases h
  exact (startRelease_state _ b).imp
    (fun hb' => hb'.trans ((emitIf_state hb).trans (emitIf_state ha))) And.left

/-- A poll leaves STATE, or its command has ended OK, or is SHUTDOWN's and has ended. -/
theorem dmaPoll_state {k : Poller} {s t : State} (h : dmaPoll k s = .next t) :
    t.sess.state = s.sess.state ∨
      k = .wait ∧ t.sess.state = .configured ∧ t.chan.response = some [0] ∨
      (∃ payload, k = .send payload) ∧ t.sess.state = .sending ∧ t.chan.response = some [0] ∨
      k = .shutdown ∧ t.sess.state = .shutDown := by
  obtain ⟨a, ha, h⟩ := andThen_eq_next h
  have hpoll := emit_state ha
  dsimp only at h
  split at h
  · obtain ⟨b, hb, h⟩ := andThen_eq_next h
    have hdebug := (emit_state hb).trans hpoll
    cases k with
    | wait | send => cases h; exact .inl hdebug
    | shutdown =>
      exact (leaveSession_state h).imp (·.trans hdebug) fun hd => .inr (.inr ⟨rfl, hd⟩)
  split at h
  · cases k with
    | wait => cases h; exact .inr (.inl ⟨rfl, rfl, rfl⟩)
    | send payload => exact .inr (.inr (.inl ⟨⟨payload, rfl⟩, startSend_state h⟩))
    | shutdown =>
      exact (leaveSession_state h).imp (·.trans hpoll) fun hd => .inr (.inr ⟨rfl, hd⟩)
  · cases h
    exact .inl hpoll

/-- In Sending, where every poll is made. -/
theorem dmaPoll_moves {k : Poller} {s t : State} {runs : Instr → Prop}
    {waited shutsDown : Prop} (hs : s.sess.state = .sending) (h : dmaPoll k s = .next t)
    (hw : k = .wait → runs .wait ∨ waited) (hd : k = .shutdown → shutsDown) :
    Moves s.sess.state runs waited shutsDown t := by
  rcases dmaPoll_state h with kept | ⟨hk, after, ok⟩ | ⟨-, after, -⟩ | ⟨hk, after⟩
  · exact .stays kept
  · exact .ends hs after ((hw hk).imp id .inr) ok
  · exact .stays (after.trans hs.symm)
  · exact .leaves after (hd hk)

/-! ### Commands -/

theorem execInit_moves {g alt ch base : Word} {s t : State}
    (h : execInit g alt ch base s = .next t) :
    Moves s.sess.state (.init g alt ch base = ·) False (Instr.init g alt ch base = .shutdown)
      t := by
  obtain ⟨-, hsess, -⟩ := openWindows_frame (initWindows s.cfg base) s
  unfold execInit at h
  cases h
  split
  · exact .stays rfl
  rename_i hs
  split
  · exact .stays rfl
  split
  · exact .stays rfl
  split
  · rename_i u hu
    rw [hu] at hsess
    exact .stays (congrArg Session.state hsess)
  · exact .opens (not_not.mp hs) rfl rfl rfl

theorem execSend_moves {payload : List Byte} {s t : State} (h : execSend payload s = .next t) :
    Moves s.sess.state (.send payload = ·) False (Instr.send payload = .shutdown) t := by
  unfold execSend at h
  split at h
  · cases h; exact .stays rfl
  rename_i hcan
  split at h
  · cases h; exact .stays rfl
  split at h
  · rename_i hs
    exact dmaPoll_moves hs h nofun nofun
  · rename_i hs
    obtain ⟨after, ok⟩ := startSend_state h
    have hconf := (canSend_iff.mp (not_not.mp hcan)).resolve_right hs
    exact .starts hconf.1 after rfl ok

theorem execWait_moves {s t : State} (h : execWait s = .next t) :
    Moves s.sess.state (Instr.wait = ·) False (Instr.wait = .shutdown) t := by
  unfold execWait at h
  split at h
  · cases h; exact .stays rfl
  split at h
  · rename_i hs
    exact dmaPoll_moves hs h (fun _ => .inl rfl) nofun
  · cases h; exact .stays rfl

theorem execShutdown_moves {s t : State} (h : execShutdown s = .next t) :
    Moves s.sess.state (Instr.shutdown = ·) False (Instr.shutdown = .shutdown) t := by
  unfold execShutdown at h
  split at h
  · cases h; exact .stays rfl
  split at h
  · rename_i hs
    exact dmaPoll_moves hs h nofun fun _ => rfl
  · exact (leaveSession_state h).elim .stays fun after => .leaves after rfl

theorem execDreset_moves {s t : State} (h : execDreset s = .next t) :
    Moves s.sess.state (Instr.dreset = ·) False (Instr.dreset = .shutdown) t := by
  unfold execDreset at h
  split at h
  · obtain ⟨u, hu, h⟩ := andThen_eq_next h
    have hkept := emit_state hu
    cases h
    by_cases hs : u.sess.state = .sending
    · exact .ends (hkept ▸ hs) (if_pos hs) (.inr (.inl rfl)) rfl
    · exact .stays ((if_neg hs).trans hkept)
  · cases h; exact .stays rfl

/-- Every command, from any state. -/
theorem exec_moves {i : Instr} (hc : i.carrier = .command) {s t : State}
    (h : exec i s = .next t) : Moves s.sess.state (i = ·) False (i = .shutdown) t := by
  by_cases hq : isQuery i = true
  · obtain ⟨ws, e⟩ := exec_of_isQuery hq s
    cases e.symm.trans h
    exact .stays rfl
  cases i with
  | init g alt ch base => exact execInit_moves h
  | cfgpat n f r z o => exact .stays (execCfgpat_state h)
  | send payload => exact execSend_moves h
  | wait => exact execWait_moves h
  | shutdown => exact execShutdown_moves h
  | dreset => exact execDreset_moves h
  | mbAlloc | mbLock | mbUnlock | mbFree => cases hc
  | _ => exact absurd rfl hq

/-- A message moves STATE only where it ends a SHUTDOWN's release. -/
theorem exec_message_state {i : Instr} (hc : i.carrier = .mailbox) {s t : State}
    (h : exec i s = .next t) :
    t.sess.state = s.sess.state ∨ t.sess.state = .shutDown ∧
      ((∃ n, s.seq = .unlocking (.shutdown n)) ∨ ∃ n, s.seq = .freeing (.shutdown n)) := by
  cases i with
  | mbAlloc size align flags => exact .inl (mbAlloc_state h)
  | mbLock hd => exact .inl (mbLock_state h)
  | mbUnlock hd =>
    cases h
    exact (mbUnlock_state hd s).imp id (And.imp id .inl)
  | mbFree hd =>
    cases h
    exact (mbFree_state hd s).imp id (And.imp id .inr)
  | _ => cases hc

/-! ### Steps -/

/-- Every step of a state that meets the invariant. -/
theorem Inv.step_moves {s t : State} (hinv : Inv s) (h : step s = .next t) :
    Moves s.sess.state (fun i => ∃ u, nextWork s = .run i u) (s.seq = .polling .wait)
      (ShuttingDown s) t := by
  cases step_cases h with
  | reset line => simp [hinv.noReset] at line
  | @message i t line waits decoded ran =>
    have hwork : nextWork s = .run i s := by simp [nextWork, line, waits, decoded]
    cases hc : i.carrier with
    | command =>
      refine (exec_moves hc ran).imp ?_ nofun ?_
      · rintro _ rfl; exact ⟨s, hwork⟩
      · rintro rfl; exact .inl ⟨s, hwork⟩
    | mailbox =>
      exact (exec_message_state hc ran).elim .stays fun ⟨after, hseq⟩ =>
        .leaves after (.inr (.inr hseq))
  | poll line waits polls ran =>
    refine dmaPoll_moves (hinv.polling polls).2 ran ?_ ?_
    · rintro rfl; exact .inr polls
    · rintro rfl; exact .inr (.inl polls)
  | @command f rest i t ready offered decoded ran =>
    have hwork : nextWork s = .run i (accept f rest s) := by
      simp [nextWork, nextFrame, ready.noReset, ready.notWaiting, ready.idle, ready.notBusy,
        offered, decoded]
    refine (exec_moves (decodeFrame_carrier decoded) ran).imp ?_ nofun ?_
    · rintro _ rfl; exact ⟨_, hwork⟩
    · rintro rfl; exact .inl ⟨_, hwork⟩
  | refusal ready offered decoded => exact .stays rfl
  | idle line waits => exact .stays rfl

/-- A response among what a run added is the channel's. -/
theorem RespondsAtMostOnce.response_of_mem {s t : State} {es : List Event} {ws : List Word}
    (h : RespondsAtMostOnce s t) (ht : t.trace = s.trace ++ es) (hws : ws ∈ responses es) :
    t.chan.response = some ws := by
  have hadded : responses t.trace = responses s.trace ++ responses es := by
    rw [ht, responses_append]
  cases h with
  | silent hs =>
    have hnone : responses es = [] := by simpa [hs.history] using hadded
    simp [hnone] at hws
  | responds hs w =>
    rw [respond_trace, responses_append, hs.history] at hadded
    rw [← List.append_cancel_left hadded] at hws
    obtain rfl : ws = w := by simpa [responses] using hws
    rfl

/-- The two clauses on a run, from the table: STATE moves as it lists, and not with an error. -/
theorem Moves.listed {s t : State} {runs : Instr → Prop} {waited shutsDown : Prop}
    {es : List Event} (h : Moves s.sess.state runs waited shutsDown t) (hr : RespondsAtMostOnce s t)
    (ht : t.trace = s.trace ++ es) :
    (t.sess.state ≠ s.sess.state →
      (s.sess.state = .uninitialized ∧ t.sess.state = .configured ∧
        ∃ g a ch base, runs (.init g a ch base)) ∨
      (s.sess.state = .configured ∧ t.sess.state = .sending ∧ ∃ payload, runs (.send payload)) ∨
      (s.sess.state = .sending ∧ t.sess.state = .configured ∧
        (runs .wait ∨ runs .dreset ∨ waited)) ∨
      (t.sess.state = .shutDown ∧ shutsDown)) ∧
    (¬ shutsDown → (∃ ws ∈ responses es, kindOf ws ≠ 0) → t.sess.state = s.sess.state) := by
  have hok (ok : t.chan.response = some [0]) : ¬ ∃ ws ∈ responses es, kindOf ws ≠ 0 := by
    rintro ⟨ws, hws, hkind⟩
    obtain rfl := Option.some.inj (ok.symm.trans (hr.response_of_mem ht hws))
    exact hkind rfl
  cases h with
  | stays kept => exact ⟨fun hne => absurd kept hne, fun _ _ => kept⟩
  | opens before after run ok =>
    exact ⟨fun _ => .inl ⟨before, after, _, _, _, _, run⟩, fun _ herr => absurd herr (hok ok)⟩
  | starts before after run ok =>
    exact ⟨fun _ => .inr (.inl ⟨before, after, _, run⟩), fun _ herr => absurd herr (hok ok)⟩
  | ends before after run ok =>
    exact ⟨fun _ => .inr (.inr (.inl ⟨before, after, run⟩)), fun _ herr => absurd herr (hok ok)⟩
  | leaves after run =>
    exact ⟨fun _ => .inr (.inr (.inr ⟨after, run⟩)), fun hno => absurd run hno⟩

/-- Settles O47: each run is in R212's table, and one that moves STATE has responded OK. -/
theorem stateMovesOnlyAsListed : Obligations.StateMovesOnlyAsListed := by
  intro s t es ht moves
  exact ⟨fun i hc h => (exec_moves hc h).listed (exec_once i s t h) ht,
    fun hinv h => (hinv.step_moves h).listed (step_once hinv.noReset t h) ht⟩

end Sys2Proof.Machine
end

section
/-! ## How a command ends (60_exceptions.md R245, R246)

A command's last act is its response, so what it may end in is a property of the state it leaves:
it still waits, or it has just responded. The lists follow R246's table. -/

namespace Sys2Proof.Machine

/-- A command under way in `t` still waits, or `t` is left by a response whose kind and cause stand
in `l`. -/
inductive EndsIn (l : List (Nat × Nat)) : State → Prop
  | waits {t : State} (underWay : t.seq ≠ .idle) : EndsIn l t
  | responds {ws : List Word} (t : State) (listed : outcomeOf ws ∈ l) : EndsIn l (respond ws t)

theorem EndsIn.mono {l l' : List (Nat × Nat)} {t : State} (h : EndsIn l t) (hl : l ⊆ l') :
    EndsIn l' t := by
  cases h with
  | waits underWay => exact .waits underWay
  | responds t listed => exact .responds t (hl listed)

theorem EndsIn.outcome_mem {l : List (Nat × Nat)} {t : State} {ws : List Word} (h : EndsIn l t)
    (hq : t.seq = .idle) (hr : t.chan.response = some ws) : outcomeOf ws ∈ l := by
  cases h with
  | waits underWay => exact absurd hq underWay
  | responds t listed => exact Option.some.inj hr ▸ listed

/-- Kind and cause stand in the first word; info and results follow it (30_encoding.md R105). -/
theorem outcomeOf_cons (w : Word) (ws : List Word) : outcomeOf (w :: ws) = outcomeOf [w] := rfl

theorem outcomeOf_ok (results : List Word) : outcomeOf (statusWord 0 0 :: results) = (0, 0) :=
  (outcomeOf_cons _ _).trans (by decide)

/-- The status word holds kind and cause in fields of their own (30_encoding.md R104). -/
theorem outcomeOf_response (e : CmdError) : outcomeOf e.response = (e.kind, e.cause) := by
  cases e with
  | device w => cases w <;> rfl
  | alloc c => cases c <;> rfl
  | noWidth => rfl
  | dmaError g => exact (by decide : outcomeOf [statusWord 4 1] = (4, 1))
  | usage c => cases c <;> rfl

theorem EndsIn.raises {l : List (Nat × Nat)} (e : CmdError) (t : State)
    (h : (e.kind, e.cause) ∈ l) : EndsIn l (raise e t) :=
  .responds t (outcomeOf_response e ▸ h)

theorem EndsIn.ok {l : List (Nat × Nat)} (results : List Word) (t : State) (h : (0, 0) ∈ l) :
    EndsIn l (respondOk results t) :=
  .responds t (outcomeOf_ok results ▸ h)

/-! ### The release chain (42_mailbox_allocator.md R180, R181) -/

/-- What a release may report: CFGPAT's error; the error SHUTDOWN has noted, or MboxFailed or OK if
it has noted none. -/
def Releaser.outcomes : Releaser → List (Nat × Nat)
  | .rollBack e => [(e.kind, e.cause)]
  | .shutdown none => [(0, 0), (2, 4)]
  | .shutdown (some e) => [(e.kind, e.cause)]

/-- What a command under way may report, a release with the error it carries. -/
def Seq.outcomes : Seq → List (Nat × Nat)
  | .unlocking r => r.outcomes
  | .freeing r => r.outcomes
  | q => mayEndUnderWay q

theorem afterExchange_outcomes (r : Releaser) (a : MboxAnswer) :
    (r.afterExchange a).outcomes ⊆ r.outcomes := by
  rcases r with e | _ | n
  · rw [afterExchange_rollBack]
    exact List.Subset.refl _
  · cases a with
    | failed => exact List.subset_cons_self _ _
    | pending | answered => exact List.Subset.refl _
  · exact List.Subset.refl _

theorem finishRelease_endsIn (r : Releaser) (s : State) :
    EndsIn r.outcomes (finishRelease r s) := by
  rcases r with e | _ | e
  · exact .raises e _ (List.mem_singleton_self _)
  · exact .ok _ _ List.mem_cons_self
  · exact .raises e _ (List.mem_singleton_self _)

theorem mbFree_endsIn {s : State} (hq : s.seq ≠ .idle) (h : Word) :
    EndsIn s.seq.outcomes (mbFree h s) := by
  rcases mbFree_cases h s with ⟨e, -⟩ | ⟨r, hr, -, e⟩ <;> rw [e]
  · exact .waits hq
  · rw [hr]
    exact (finishRelease_endsIn _ _).mono (afterExchange_outcomes r _)

theorem mbUnlock_endsIn {s : State} (hq : s.seq ≠ .idle) (h : Word) :
    EndsIn s.seq.outcomes (mbUnlock h s) := by
  rcases mbUnlock_cases h s with ⟨e, -⟩ | ⟨r, hr, -, e⟩ <;> rw [e]
  · exact .waits hq
  · rw [hr]
    exact (mbFree_endsIn (by simp) _).mono (afterExchange_outcomes r _)

theorem startRelease_endsIn (r : Releaser) (s : State) :
    EndsIn r.outcomes (startRelease r s) := by
  unfold startRelease
  split
  · exact finishRelease_endsIn r s
  · exact mbFree_endsIn (s := { s with seq := .freeing r }) nofun _
  · exact mbUnlock_endsIn (s := { s with seq := .unlocking r }) nofun _
  · exact mbUnlock_endsIn (s := { record _ s with seq := .unlocking r, sess := _ }) nofun _

/-- A failed Allocate raises its own AllocError, whatever its roll-back meets (R180). -/
theorem rollBack_endsIn {l : List (Nat × Nat)} (c : AllocCause) (s : State)
    (h : (2, c.code) ∈ l) : EndsIn l (startRelease (.rollBack (.alloc c)) s) :=
  (startRelease_endsIn _ s).mono (List.cons_subset.mpr ⟨h, List.nil_subset _⟩)

/-! ### The allocation chain (R179) -/

theorem finishConfigure_endsIn {j : CfgJob} {s t : State} (h : finishConfigure j s = .next t) :
    EndsIn [(0, 0)] t := by
  obtain ⟨a, -, h⟩ := andThen_eq_next h
  obtain ⟨b, -, h⟩ := andThen_eq_next h
  obtain ⟨d, -, h⟩ := andThen_eq_next h
  cases h
  exact .ok _ _ List.mem_cons_self

theorem mapBlock_endsIn {j : CfgJob} {s t : State} (h : mapBlock j s = .next t) :
    EndsIn [(0, 0), (2, 3)] t := by
  unfold mapBlock at h
  dsimp only at h
  split at h
  · cases h
    exact rollBack_endsIn .mapFailed _ (by decide)
  · exact (finishConfigure_endsIn h).mono (by decide)

theorem mbLock_endsIn {hd : Word} {s t : State} (hq : s.seq ≠ .idle)
    (h : mbLock hd s = .next t) : EndsIn s.seq.outcomes t := by
  unfold mbLock at h
  dsimp only at h
  split at h
  case h_1 j hj =>
    rw [hj]
    change EndsIn [(0, 0), (2, 2), (2, 3), (2, 4)] t
    unfold afterLock at h
    split at h
    · cases h; exact .waits hq
    · cases h; exact rollBack_endsIn .mboxFailed _ (by decide)
    · split at h
      · cases h; exact rollBack_endsIn .lockFailed _ (by decide)
      · exact (mapBlock_endsIn h).mono (by decide)
  case h_2 => cases h; exact .waits hq

theorem mbAlloc_endsIn {size align flags : Word} {s t : State} (hq : s.seq ≠ .idle)
    (h : mbAlloc size align flags s = .next t) : EndsIn s.seq.outcomes t := by
  unfold mbAlloc at h
  dsimp only at h
  split at h
  case h_1 j hj =>
    rw [hj]
    change EndsIn [(0, 0), (2, 1), (2, 2), (2, 3), (2, 4)] t
    unfold afterAlloc at h
    split at h
    · cases h; exact .waits hq
    · cases h; exact rollBack_endsIn .mboxFailed _ (by decide)
    · split at h
      · cases h; exact rollBack_endsIn .allocZero _ (by decide)
      · have hlock : EndsIn [(0, 0), (2, 2), (2, 3), (2, 4)] t := mbLock_endsIn (by simp) h
        exact hlock.mono (by decide)
  case h_2 => cases h; exact .waits hq

/-- A message responds, if it does, for the command under way. -/
theorem exec_message_endsIn {i : Instr} (hc : i.carrier = .mailbox) {s t : State}
    (hq : s.seq ≠ .idle) (h : exec i s = .next t) : EndsIn s.seq.outcomes t := by
  cases i with
  | mbAlloc size align flags => exact mbAlloc_endsIn hq h
  | mbLock hd => exact mbLock_endsIn hq h
  | mbUnlock hd => cases h; exact mbUnlock_endsIn hq hd
  | mbFree hd => cases h; exact mbFree_endsIn hq hd
  | _ => cases hc

/-! ### DmaWait and what follows it (43_dma_engine.md R196) -/

theorem startSend_endsIn {payload : List Byte} {s t : State}
    (h : startSend payload s = .next t) : EndsIn [(0, 0)] t := by
  obtain ⟨a, -, h⟩ := andThen_eq_next h
  obtain ⟨b, -, h⟩ := andThen_eq_next h
  cases h
  exact .ok _ _ List.mem_cons_self

theorem leaveSession_endsIn {n : Option CmdError} {s t : State}
    (h : leaveSession n s = .next t) : EndsIn (Releaser.shutdown n).outcomes t := by
  obtain ⟨a, -, h⟩ := andThen_eq_next h
  obtain ⟨b, -, h⟩ := andThen_eq_next h
  cases h
  exact startRelease_endsIn _ b

theorem afterWait_endsIn {k : Poller} {s t : State} (h : afterWait k s = .next t) :
    EndsIn (mayEndUnderWay (.polling k)) t := by
  cases k with
  | wait => cases h; exact .ok _ _ List.mem_cons_self
  | send payload => exact (startSend_endsIn h).mono (List.cons_subset_cons _ (List.nil_subset _))
  | shutdown => exact (leaveSession_endsIn h).mono (by decide)

theorem afterWaitError_endsIn {k : Poller} {debug : Word} {s t : State}
    (h : afterWaitError k debug s = .next t) : EndsIn (mayEndUnderWay (.polling k)) t := by
  cases k with
  | wait => cases h; exact .raises _ _ (List.mem_cons_of_mem _ List.mem_cons_self)
  | send payload => cases h; exact .raises _ _ (List.mem_cons_of_mem _ List.mem_cons_self)
  | shutdown =>
    have hleft : EndsIn [(4, 1)] t := leaveSession_endsIn h
    exact hleft.mono (by decide)

theorem dmaPoll_endsIn {k : Poller} {s t : State} (h : dmaPoll k s = .next t) :
    EndsIn (mayEndUnderWay (.polling k)) t := by
  obtain ⟨a, -, h⟩ := andThen_eq_next h
  dsimp only at h
  split at h
  · obtain ⟨b, -, h⟩ := andThen_eq_next h
    exact afterWaitError_endsIn h
  split at h
  · exact afterWait_endsIn h
  · cases h; exact .waits nofun

/-! ### Commands -/

/-- What a command in STATE `p` may end in past its checks: no UsageError, and HardwareFaultError
in Sending only. -/
def mayEndPastChecks (i : Instr) (p : Phase) : List (Nat × Nat) :=
  (mayEndIn i).filter fun o => o.1 ≠ 5 ∧ (o.1 = 4 → p = .sending)

theorem mem_mayEndPastChecks {i : Instr} {p : Phase} {o : Nat × Nat} :
    o ∈ mayEndPastChecks i p ↔ o ∈ mayEndIn i ∧ o.1 ≠ 5 ∧ (o.1 = 4 → p = .sending) := by
  simp [mayEndPastChecks, imp_iff_not_or]

/-- How a command run in `s` ends: with a response and nothing else, or past its checks. -/
inductive Ended (i : Instr) (s : State) : State → Prop
  | atOnce {ws : List Word} (listed : outcomeOf ws ∈ mayEndIn i) (kind : (outcomeOf ws).1 ≠ 4) :
      Ended i s (respond ws s)
  | later {t : State} (ends : EndsIn (mayEndPastChecks i s.sess.state) t) : Ended i s t

/-- OK, and nothing else. -/
theorem Ended.answers {i : Instr} {s : State} (results : List Word)
    (h : (mayEndIn i).contains (0, 0) = true) : Ended i s (respondOk results s) :=
  .atOnce (outcomeOf_ok results ▸ List.contains_iff_mem.mp h) (by simp [outcomeOf_ok])

/-- An error, and nothing else. -/
theorem Ended.refuses {i : Instr} {s : State} (e : CmdError) (hk : e.kind ≠ 4)
    (h : (mayEndIn i).contains (e.kind, e.cause) = true) : Ended i s (raise e s) :=
  .atOnce (outcomeOf_response e ▸ List.contains_iff_mem.mp h)
    (outcomeOf_response e ▸ hk)

theorem Ended.refusesUsage {i : Instr} {s : State} (c : UsageCause)
    (h : (mayEndIn i).contains (5, c.code) = true) : Ended i s (raise (.usage c) s) :=
  .refuses (.usage c) (show 5 ≠ 4 by decide) h

/-- A command polls from Sending, and the poll may end in all that R246 lists past its checks. -/
theorem Ended.polled {i : Instr} {k : Poller} {s t : State} (hs : s.sess.state = .sending)
    (h : dmaPoll k s = .next t)
    (hk : mayEndPastChecks i .sending = mayEndUnderWay (.polling k)) : Ended i s t := by
  refine .later ?_
  rw [hs, hk]
  exact dmaPoll_endsIn h

/-- The commands that only answer, OK or with an error of their own. -/
theorem exec_ended_of_isQuery {i : Instr} (hq : isQuery i = true) {s t : State}
    (h : exec i s = .next t) : Ended i s t := by
  cases i with
  | stat => cases h; exact .answers _ rfl
  | blddesc source dest length => cases h; exact .answers _ rfl
  | solve base desired =>
    cases h
    split
    exacts [.refusesUsage .badOperand rfl, .answers _ rfl]
  | solveu base desired =>
    cases h
    split
    exacts [.refusesUsage .badOperand rfl, .answers _ rfl]
  | repr percent width =>
    cases h
    split
    exacts [.answers _ rfl, .refusesUsage .badOperand rfl]
  | encode zero one width payload =>
    cases h
    split
    exacts [.answers _ rfl, .refusesUsage .badOperand rfl]
  | bufsize count freq delay width =>
    cases h
    split
    exacts [.answers _ rfl, .refusesUsage .badOperand rfl]
  | chwidth zero one =>
    cases h
    split
    · split
      · exact .answers _ rfl
      · exact .refuses .noWidth (by decide) rfl
    · exact .refusesUsage .badOperand rfl
  | v2bus pointer =>
    cases h
    split
    · exact .refusesUsage .wrongState rfl
    split
    · exact .refusesUsage .outOfBlock rfl
    · exact .answers _ rfl
  | _ => cases hq

theorem execInit_ended {g alt ch base : Word} {s t : State}
    (h : execInit g alt ch base s = .next t) : Ended (.init g alt ch base) s t := by
  unfold execInit at h
  cases h
  split
  · exact .refusesUsage .wrongState rfl
  split
  · exact .refusesUsage .badOperand rfl
  split
  · exact .refusesUsage .badConfig rfl
  split
  · rename_i refused u hu
    have hlist : (1, refused.cause) ∈ [(1, 1), (1, 2), (1, 3), (1, 4)] := by
      cases refused <;> decide
    have hends := EndsIn.raises (.device refused) { u with win := s.win } hlist
    exact .later (hends.mono (by simp [mayEndPastChecks, mayEndIn]))
  · exact .later (.ok _ _ (by simp [mayEndPastChecks, mayEndIn]))

theorem execCfgpat_ended {n f r z o : Word} {s t : State}
    (h : execCfgpat n f r z o s = .next t) : Ended (.cfgpat n f r z o) s t := by
  unfold execCfgpat at h
  split at h
  · cases h; exact .refusesUsage .wrongState rfl
  split at h
  · cases h; exact .refusesUsage .badOperand rfl
  split at h
  · cases h; exact .refuses .noWidth (by decide) rfl
  dsimp only at h
  split at h
  · cases h; exact .refusesUsage .badOperand rfl
  · have hends : EndsIn [(0, 0), (2, 1), (2, 2), (2, 3), (2, 4)] t := mbAlloc_endsIn (by simp) h
    exact .later (hends.mono (by simp [mayEndPastChecks, mayEndIn]))

theorem execSend_ended {payload : List Byte} {s t : State} (h : execSend payload s = .next t) :
    Ended (.send payload) s t := by
  unfold execSend at h
  split at h
  · cases h; exact .refusesUsage .wrongState rfl
  split at h
  · cases h; exact .refusesUsage .badOperand rfl
  split at h
  · rename_i hs
    exact .polled hs h rfl
  · exact .later ((startSend_endsIn h).mono (by simp [mayEndPastChecks, mayEndIn]))

theorem execWait_ended {s t : State} (h : execWait s = .next t) : Ended .wait s t := by
  unfold execWait at h
  split at h
  · cases h; exact .refusesUsage .wrongState rfl
  split at h
  · rename_i hs
    exact .polled hs h rfl
  · cases h; exact .answers _ rfl

theorem execShutdown_ended {s t : State} (h : execShutdown s = .next t) : Ended .shutdown s t := by
  unfold execShutdown at h
  split at h
  · cases h; exact .refusesUsage .wrongState rfl
  split at h
  · rename_i hs
    exact .polled hs h rfl
  · have hleft : EndsIn [(0, 0), (2, 4)] t := leaveSession_endsIn h
    exact .later (hleft.mono (by simp [mayEndPastChecks, mayEndIn]))

theorem execDreset_ended {s t : State} (h : execDreset s = .next t) : Ended .dreset s t := by
  unfold execDreset at h
  split at h
  · obtain ⟨u, -, h⟩ := andThen_eq_next h
    cases h
    exact .later (.ok _ _ (by simp [mayEndPastChecks, mayEndIn]))
  · cases h; exact .refusesUsage .wrongState rfl

/-- Every command, from any state. -/
theorem exec_ended {i : Instr} (hc : i.carrier = .command) {s t : State}
    (h : exec i s = .next t) : Ended i s t := by
  by_cases hq : isQuery i = true
  · exact exec_ended_of_isQuery hq h
  cases i with
  | init g alt ch base => exact execInit_ended h
  | cfgpat n f r z o => exact execCfgpat_ended h
  | send payload => exact execSend_ended h
  | wait => exact execWait_ended h
  | shutdown => exact execShutdown_ended h
  | dreset => exact execDreset_ended h
  | mbAlloc | mbLock | mbUnlock | mbFree => cases hc
  | _ => exact absurd rfl hq

/-! ### From the history to the response -/

/-- A run that added a response is over and has it on the channel. -/
theorem RespondsAtMostOnce.over_of_mem {s t : State} {es : List Event} {ws : List Word}
    (h : RespondsAtMostOnce s t) (ht : t.trace = s.trace ++ es) (hws : ws ∈ responses es) :
    t.seq = .idle ∧ t.chan.response = some ws := by
  refine ⟨?_, h.response_of_mem ht hws⟩
  cases h with
  | silent hs =>
    have hnone : responses es = [] := by simpa [ht, responses_append] using hs.history
    simp [hnone] at hws
  | responds hs w => rfl

/-- R246's row of the command. -/
theorem Ended.listed {i : Instr} {s t : State} {ws : List Word} (h : Ended i s t)
    (hq : t.seq = .idle) (hr : t.chan.response = some ws) :
    outcomeOf ws ∈ mayEndIn i ∧ (kindOf ws = 4 → s.sess.state = .sending) := by
  cases h with
  | atOnce listed kind =>
    obtain rfl := Option.some.inj hr
    exact ⟨listed, fun h4 => absurd h4 kind⟩
  | later ends =>
    obtain ⟨hmem, -, h4⟩ := mem_mayEndPastChecks.mp (ends.outcome_mem hq hr)
    exact ⟨hmem, h4⟩

/-- Settles O46: past its checks a command ends in no UsageError. -/
theorem usageErrorsChangeNothing : Obligations.UsageErrorsChangeNothing := by
  intro i s t es ws hc h ht hws h5
  obtain ⟨hq, hr⟩ := (exec_once i s t h).over_of_mem ht hws
  cases exec_ended hc h with
  | atOnce listed kind => exact Option.some.inj hr ▸ rfl
  | later ends =>
    obtain ⟨-, hne, -⟩ := mem_mayEndPastChecks.mp (ends.outcome_mem hq hr)
    exact absurd h5 hne

/-! ### Steps -/

/-- The error a release carries by the invariant is one R246 lists for the command that issued it,
and a DMA error was met in Sending. -/
theorem ReleaseOk.outcomes_listed {s : State} {r : Releaser} (h : ReleaseOk s r)
    (hp : r.proper = true) {o : Nat × Nat} (ho : o ∈ r.outcomes) :
    o ∈ mayEndUnderWay (.freeing r) ∧ (o.1 = 4 → s.sess.state = .sending) := by
  rcases r with e | _ | e
  case rollBack =>
    cases e with
    | alloc c =>
      obtain rfl := List.mem_singleton.mp ho
      exact ⟨by cases c <;> decide, nofun⟩
    | _ => cases hp
  case shutdown.none =>
    have hlist : ∀ o ∈ [(0, 0), (2, 4)], o ∈ [(0, 0), (2, 4), (4, 1)] ∧ o.1 ≠ 4 := by decide
    obtain ⟨hmem, hne⟩ := hlist o ho
    exact ⟨hmem, fun h4 => absurd h4 hne⟩
  case shutdown.some =>
    obtain rfl := List.mem_singleton.mp ho
    cases e with
    | alloc c =>
      cases c with
      | mboxFailed => exact ⟨(by decide : (2, 4) ∈ [(0, 0), (2, 4), (4, 1)]), nofun⟩
      | _ => cases hp
    | dmaError g =>
      exact ⟨(by decide : (4, 1) ∈ [(0, 0), (2, 4), (4, 1)]), fun _ => h.cause g rfl⟩
    | _ => cases hp

theorem mayEndUnderWay_unlocking (r : Releaser) :
    mayEndUnderWay (.unlocking r) = mayEndUnderWay (.freeing r) := by
  cases r <;> rfl

theorem Inv.releaser_proper {s : State} {r : Releaser} (h : Inv s)
    (hq : s.seq = .unlocking r ∨ s.seq = .freeing r) : r.proper = true := by
  have hp := h.position
  rw [SeqOk] at hp
  rcases hq with hq | hq <;> rw [hq] at hp <;> exact hp.2.1

/-- What a command under way may report, by the invariant, is what R246 lists for it. -/
theorem Inv.outcomes_listed {s : State} (h : Inv s) {o : Nat × Nat} (ho : o ∈ s.seq.outcomes) :
    o ∈ mayEndUnderWay s.seq ∧ (o.1 = 4 → s.sess.state = .sending) := by
  cases hq : s.seq with
  | idle => rw [hq] at ho; cases ho
  | polling k =>
    rw [hq] at ho
    exact ⟨ho, fun _ => (h.polling hq).2⟩
  | allocating j =>
    have hne : ∀ o ∈ [(0, 0), (2, 1), (2, 2), (2, 3), (2, 4)], o.1 ≠ 4 := by decide
    rw [hq] at ho
    exact ⟨ho, fun h4 => absurd h4 (hne o ho)⟩
  | locking j =>
    have hne : ∀ o ∈ [(0, 0), (2, 2), (2, 3), (2, 4)], o.1 ≠ 4 := by decide
    rw [hq] at ho
    exact ⟨ho, fun h4 => absurd h4 (hne o ho)⟩
  | unlocking r =>
    rw [hq] at ho
    rw [mayEndUnderWay_unlocking]
    exact (h.releaseOk (.inl hq)).outcomes_listed (h.releaser_proper (.inl hq)) ho
  | freeing r =>
    rw [hq] at ho
    exact (h.releaseOk (.inr hq)).outcomes_listed (h.releaser_proper (.inr hq)) ho

/-- R246's "decode only" causes. -/
theorem decodeCause_listed (e : DecodeError) :
    (5, (decodeCause e).code) ∈ [(5, 1), (5, 2), (5, 6)] := by
  cases e <;> decide

theorem Ready.nextWork_eq {s : State} (h : Ready s) : nextWork s = nextFrame s := by
  simp [nextWork, h.noReset, h.notWaiting, h.idle]

/-- R246's table for every step of a state that meets the invariant. -/
theorem Inv.step_listed {s t : State} {es : List Event} {ws : List Word} (hinv : Inv s)
    (ht : t.trace = s.trace ++ es) (hws : ws ∈ responses es) (h : step s = .next t) :
    outcomeOf ws ∈ mayEndNext s ∧ (kindOf ws = 4 → s.sess.state = .sending) := by
  obtain ⟨hq, hr⟩ := (step_once hinv.noReset t h).over_of_mem ht hws
  cases step_cases h with
  | reset line => simp [hinv.noReset] at line
  | @message i t line waits decoded ran =>
    have hwork : nextWork s = .run i s := by simp [nextWork, line, waits, decoded]
    cases hc : i.carrier with
    | command => simpa [mayEndNext, hwork, hc] using (exec_ended hc ran).listed hq hr
    | mailbox =>
      have hseq : s.seq ≠ .idle := fun hidle => by
        simp [(hinv.atCommand hidle).notWaiting] at waits
      simpa [mayEndNext, hwork, hc, outcomeOf] using
        hinv.outcomes_listed ((exec_message_endsIn hc hseq ran).outcome_mem hq hr)
  | @poll k t line waits polls ran =>
    have hwork : nextWork s = .poll k := by simp [nextWork, line, waits, polls]
    have hmem := (dmaPoll_endsIn ran).outcome_mem hq hr
    rw [mayEndNext, hwork]
    exact ⟨polls ▸ hmem, fun _ => (hinv.polling polls).2⟩
  | @command f rest i t ready offered decoded ran =>
    have hwork : nextWork s = .run i (accept f rest s) := by
      simp [ready.nextWork_eq, nextFrame, ready.idle, ready.notBusy, offered, decoded]
    have hc := decodeFrame_carrier decoded
    simpa [mayEndNext, hwork, hc] using (exec_ended hc ran).listed hq hr
  | @refusal f rest e ready offered decoded =>
    have hwork : nextWork s = .refuse e (accept f rest s) := by
      simp [ready.nextWork_eq, nextFrame, ready.idle, ready.notBusy, offered, decoded]
    obtain rfl := Option.some.inj hr
    have hout := outcomeOf_response (.usage (decodeCause e))
    rw [mayEndNext, hwork, hout]
    exact ⟨decodeCause_listed e, fun h4 => nomatch (congrArg Prod.fst hout).symm.trans h4⟩
  | idle line waits =>
    obtain rfl : es = [] := by simpa using ht
    cases hws

/-- Settles O45: each run is in R246's table. -/
theorem errorKindsOfEachCommand : Obligations.ErrorKindsOfEachCommand := by
  intro s t es ws ht hws
  refine ⟨fun i hc h => ?_, fun hinv h => hinv.step_listed ht hws h⟩
  obtain ⟨hq, hr⟩ := (exec_once i s t h).over_of_mem ht hws
  exact (exec_ended hc h).listed hq hr

end Sys2Proof.Machine
end

section
/-! ## Idle steps, reset steps, and what no step undoes (70_reset_and_hazards.md R280 to R283) -/

namespace Sys2Proof.Machine

/-- Settles O6: with no frame there is no work. -/
theorem idleBlockHoldsItsState : Obligations.IdleBlockHoldsItsState :=
  fun _ => step_of_no_frame

/-- The reset line goes before all other work (R280). -/
theorem step_of_resetLine {s : State} (h : s.chan.resetLine = true) :
    step s = .next (hardReset s) := by
  simp [step, nextWork, h]

/-- Settles O56: the step is `hardReset`, which writes R50's values and leaves the rest. -/
theorem hardwareResetIsOneStep : Obligations.HardwareResetIsOneStep := fun s h =>
  ⟨hardReset s, step_of_resetLine h, rfl, rfl, rfl, rfl, ⟨rfl, rfl, rfl, rfl⟩, rfl, rfl, rfl, rfl,
    rfl, rfl, rfl, rfl, rfl, rfl⟩

/-- R283, by what was run. -/
theorem step_cfg {s t : State} (h : step s = .next t) : t.cfg = s.cfg := by
  cases step_cases h with
  | reset line => rfl
  | message line waits decoded ran => exact (exec_keeps _ s t ran).config
  | poll line waits polls ran => exact (dmaPoll_keeps _ s t ran).config
  | command ready offered decoded ran => exact (exec_keeps _ _ t ran).config
  | refusal ready offered decoded => rfl
  | idle line waits => rfl

/-- Settles O54: a reset appends one event, and every other step only adds to the history. -/
theorem historyGrowsConfigurationStays : Obligations.HistoryGrowsConfigurationStays := by
  intro s t h
  refine ⟨step_cfg h, ?_⟩
  cases hl : s.chan.resetLine with
  | true =>
    cases (step_of_resetLine hl).symm.trans h
    exact ⟨[.hardReset], rfl⟩
  | false =>
    obtain ⟨es, hes⟩ := step_history hl h
    exact ⟨es, hes.symm⟩

end Sys2Proof.Machine
end

section
/-! ## A SHUTDOWN that has responded (70_reset_and_hazards.md R303)

SHUTDOWN responds in `finishShutdown` only, and everywhere before it the command is still under way.
So it is enough to follow, to that end, that the buffer is back and that nothing will be left in
flight. -/

namespace Sys2Proof.Machine

/-- Once no command is under way in `t`, the SHUTDOWN that led there has responded and nothing
outlives it. -/
def EndsCleanly (t : State) : Prop := t.seq = .idle → Responded t ∧ Clean t

/-- A SHUTDOWN that waits has not ended. -/
theorem EndsCleanly.of_seq {t : State} {q : Seq} (h : t.seq = q) (hq : q ≠ .idle) :
    EndsCleanly t :=
  fun hidle => absurd (h.symm.trans hidle) hq

/-! ### The release -/

theorem finishShutdown_endsCleanly {n : Option CmdError} {s : State}
    (hw : s.mbox.waiting = false) (hi : inflightAfterShutdown n s.inflight = false) :
    EndsCleanly (finishShutdown n s) :=
  fun _ => ⟨finishShutdown_responded n hw, finishShutdown_clean n hi⟩

theorem mbFree_endsCleanly {s : State} {n : Option CmdError} (h : Word)
    (hq : s.seq = .freeing (.shutdown n)) (hi : inflightAfterShutdown n s.inflight = false) :
    EndsCleanly (mbFree h s) := by
  rcases mbFree_cases h s with ⟨e, -⟩ | ⟨r, hr, hmet, e⟩ <;> rw [e]
  · exact .of_seq hq nofun
  · obtain rfl := Seq.freeing.inj (hq.symm.trans hr)
    rw [afterExchange_shutdown]
    exact finishShutdown_endsCleanly (mboxCall_waiting hmet) (by simpa using hi)

theorem mbUnlock_endsCleanly {s : State} {n : Option CmdError} (h : Word)
    (hq : s.seq = .unlocking (.shutdown n)) (hi : inflightAfterShutdown n s.inflight = false) :
    EndsCleanly (mbUnlock h s) := by
  rcases mbUnlock_cases h s with ⟨e, -⟩ | ⟨r, hr, -, e⟩ <;> rw [e]
  · exact .of_seq hq nofun
  · obtain rfl := Seq.unlocking.inj (hq.symm.trans hr)
    exact mbFree_endsCleanly _ (congrArg Seq.freeing (afterExchange_shutdown n _))
      (by simpa using hi)

theorem startRelease_endsCleanly {n : Option CmdError} {s : State}
    (hw : s.mbox.waiting = false) (hi : inflightAfterShutdown n s.inflight = false) :
    EndsCleanly (startRelease (.shutdown n) s) := by
  unfold startRelease
  split
  · exact finishShutdown_endsCleanly hw hi
  · exact mbFree_endsCleanly _ rfl hi
  · exact mbUnlock_endsCleanly _ rfl hi
  · exact mbUnlock_endsCleanly _ rfl hi

/-! ### The command and its wait -/

/-- A_PWM_DISABLE and A_CLK_STOP where their window is open. -/
theorem emitIf_waiting {b : Bool} {a : Action} {s t : State}
    (h : (if b then emit a s else .next s) = .next t) : t.mbox.waiting = s.mbox.waiting := by
  split at h
  · obtain ⟨rfl, -⟩ := emit_eq_next h
    rw [perform_mbox]
  · cases h; rfl

theorem emitIf_inflight {b : Bool} {a : Action} {s t : State}
    (h : (if b then emit a s else .next s) = .next t)
    (ha : a.inflightAfter s.inflight = s.inflight) : t.inflight = s.inflight := by
  split at h
  · obtain ⟨rfl, -⟩ := emit_eq_next h
    exact ha
  · cases h; rfl

theorem leaveSession_endsCleanly {n : Option CmdError} {s t : State}
    (hw : s.mbox.waiting = false) (hi : inflightAfterShutdown n s.inflight = false)
    (h : leaveSession n s = .next t) : EndsCleanly t := by
  obtain ⟨a, ha, h⟩ := andThen_eq_next h
  obtain ⟨b, hb, h⟩ := andThen_eq_next h
  cases h
  refine startRelease_endsCleanly ?_ ?_
  · rw [emitIf_waiting hb, emitIf_waiting ha, hw]
  · rw [emitIf_inflight hb rfl, emitIf_inflight ha rfl, hi]

theorem dmaPoll_shutdown_endsCleanly {s t : State} (hw : s.mbox.waiting = false)
    (h : dmaPoll .shutdown s = .next t) : EndsCleanly t := by
  obtain ⟨a, ha, h⟩ := andThen_eq_next h
  obtain ⟨rfl, -⟩ := emit_eq_next ha
  dsimp only at h
  split at h
  · obtain ⟨b, hb, h⟩ := andThen_eq_next h
    obtain ⟨rfl, -⟩ := emit_eq_next hb
    exact leaveSession_endsCleanly (by simpa using hw) rfl h
  split at h
  · exact leaveSession_endsCleanly (by simpa using hw) rfl h
  · cases h
    exact .of_seq rfl nofun

/-- In ShutDown no session is left, so nothing of one is (44_session.md R212). -/
theorem AtCommand.clean_of_shutDown {s : State} (h : AtCommand s)
    (hs : s.sess.state = .shutDown) : Clean s := by
  have hl : s.sess.live = false := by simp [Session.live, hs]
  have hv : s.sess.patternValid = false := by simpa [hl] using h.settled.live
  exact ⟨.inl hs, h.settled.stage_none hv, h.steady.closed hl, h.steady.quiet (by simp [hs])⟩

/-- A second SHUTDOWN is in the wrong state, and leaves things as the first did. -/
theorem AtCommand.exec_shutdown_endsCleanly {s t : State} (hat : AtCommand s)
    (h : exec .shutdown s = .next t) : EndsCleanly t := by
  by_cases hd : s.sess.state = .shutDown
  · rw [exec, execShutdown, if_pos hd] at h
    cases h
    obtain ⟨hstate, hblock, ⟨hg, hp, hc, hdma⟩, hquiet⟩ := hat.clean_of_shutDown hd
    exact fun _ => ⟨⟨rfl, hat.notWaiting, rfl, rfl⟩, hstate, hblock, ⟨hg, hp, hc, hdma⟩, hquiet⟩
  by_cases hs : s.sess.state = .sending
  · exact dmaPoll_shutdown_endsCleanly hat.notWaiting ((exec_shutdown_of_sending hs).symm.trans h)
  · rw [exec_shutdown_of_not_sending hd hs] at h
    exact leaveSession_endsCleanly (n := none) hat.notWaiting (hat.steady.quiet hs) h

/-! ### Its steps -/

/-- The mailbox buffer holds no command (30_encoding.md R111). -/
theorem decodeMessage_carrier {code : Word} {ws : List Word} {i : Instr}
    (h : decodeMessage code ws = .ok i) : i.carrier = .mailbox := by
  unfold decodeMessage at h
  split at h
  · split at h <;> cases h
    rfl
  · split at h
    · split_ifs at h <;> cases h <;> rfl
    · cases h
  · cases h

/-- A command is run where its frame was accepted. -/
theorem Inv.atCommand_of_run {s u : State} {i : Instr} (hinv : Inv s) (hc : i.carrier = .command)
    (hwork : nextWork s = .run i u) : AtCommand u := by
  unfold nextWork at hwork
  split at hwork
  · cases hwork
  split at hwork
  · split at hwork
    · rename_i decoded
      cases hwork
      cases hc.symm.trans (decodeMessage_carrier decoded)
    · cases hwork
  split at hwork
  · cases hwork
  · rename_i hq
    unfold nextFrame at hwork
    split at hwork
    · cases hwork
    split at hwork
    · split at hwork <;> cases hwork
      exact (hinv.accepted hq _ _).toAtCommand
    · cases hwork
  all_goals cases hwork

/-- The command itself, each poll of its wait, and each message of its release. -/
theorem Inv.step_endsCleanly {s t : State} (hinv : Inv s) (hdown : ShuttingDown s)
    (h : step s = .next t) : EndsCleanly t := by
  have hp := hinv.position
  rw [SeqOk] at hp
  rcases hdown with ⟨u, hwork⟩ | hq | ⟨n, hq⟩ | ⟨n, hq⟩
  · rw [step, hwork] at h
    exact (hinv.atCommand_of_run rfl hwork).exec_shutdown_endsCleanly h
  · have hw := (hinv.polling hq).1.notWaiting
    rw [step_of_polling hinv.noReset hw hq] at h
    exact dmaPoll_shutdown_endsCleanly hw h
  · rw [hq] at hp
    obtain ⟨hawaits, -, -, hleave⟩ := hp
    rw [step_of_awaits hinv.noReset hawaits (decodeMessage_unlock _ _)] at h
    cases h
    exact mbUnlock_endsCleanly _ hq hleave.quiet
  · rw [hq] at hp
    obtain ⟨hawaits, -, -, hleave⟩ := hp
    rw [step_of_awaits hinv.noReset hawaits (decodeMessage_free _ _)] at h
    cases h
    exact mbFree_endsCleanly _ hq hleave.quiet

/-- Settles O42: every way of a SHUTDOWN to its response leads through its end. -/
theorem respondedShutdownEndsCleanly : Obligations.RespondedShutdownEndsCleanly := by
  intro s t left
  have hleft (h : EndsCleanly t) (hq : t.seq = .idle) : left := by
    obtain ⟨hresponded, hclean⟩ := h hq
    exact ⟨hresponded, hclean, fun hframes => ⟨⟨hframes, hresponded⟩, hclean⟩⟩
  exact ⟨fun hat _ h => hleft (hat.exec_shutdown_endsCleanly h),
    fun hinv hdown h => hleft (hinv.step_endsCleanly hdown h)⟩

end Sys2Proof.Machine
end

section
/-! ## What may happen while a transfer is in flight (70_reset_and_hazards.md R286, R287)

A step is followed through its parts, with a flag beside each state that says whether a transfer may
be in flight there: the flag of the history so far, not the model's own record. Only DMA actions and
a status word move the flag; MemoryBlock writes and a channel reset need it clear. -/

namespace Sys2Proof.Machine

/-- The part that led from `s`, with the flag at `b`, to `t`, with the flag at `b'`, disturbs no
transfer: whatever may follow `t` may still follow `s` after it. -/
structure Undisturbed (b : Bool) (s : State) (b' : Bool) (t : State) : Prop where
  config : t.cfg = s.cfg
  history : ∃ es, t.trace = s.trace ++ es ∧
    ∀ fs, undisturbed s.cfg b' fs = true → undisturbed s.cfg b (es ++ fs) = true

theorem Undisturbed.refl (b : Bool) (s : State) : Undisturbed b s b s :=
  ⟨rfl, [], (List.append_nil _).symm, fun _ => id⟩

theorem Undisturbed.after {b b' b'' : Bool} {s t u : State} (g : Undisturbed b' t b'' u)
    (h : Undisturbed b s b' t) : Undisturbed b s b'' u := by
  obtain ⟨hcfg, es, hes, hmay⟩ := h
  obtain ⟨gcfg, fs, hfs, gmay⟩ := g
  rw [hcfg] at gmay
  refine ⟨gcfg.trans hcfg, es ++ fs, by rw [hfs, hes, List.append_assoc], fun gs hgs => ?_⟩
  rw [List.append_assoc]
  exact hmay _ (gmay gs hgs)

/-- Changes outside configuration and history do not count. -/
theorem Undisturbed.of_eq {b b' : Bool} {s t u : State} (h : Undisturbed b s b' t)
    (hc : u.cfg = t.cfg) (ht : u.trace = t.trace) : Undisturbed b s b' u := by
  obtain ⟨hcfg, es, hes, hmay⟩ := h
  exact ⟨hc.trans hcfg, es, ht.trans hes, hmay⟩

/-- One event. -/
theorem Undisturbed.of_event {b b' : Bool} {s t : State} {e : Event} (hc : t.cfg = s.cfg)
    (ht : t.trace = s.trace ++ [e])
    (he : ∀ fs, undisturbed s.cfg b' fs = true → undisturbed s.cfg b (e :: fs) = true) :
    Undisturbed b s b' t :=
  ⟨hc, [e], ht, he⟩

/-- A status word that is neither active nor in error clears the flag, whatever it was
(20_memory.md R82). -/
theorem undisturbed_winRead (c : Config) (b : Bool) (n : WinName) (i : Nat) (v : Word)
    (es : List Event) :
    undisturbed c b (.winRead n i v :: es) = undisturbed c
      (if n = .dma ∧ i = c.dmaCs ∧ v &&& c.periph.dmaCsError = 0 ∧ v &&& c.periph.dmaCsActive = 0
        then false else b) es := rfl

/-- What may happen with a transfer in flight may happen without one: an event leaves both flags as
they are, or makes them one. -/
theorem undisturbed_of_true {c : Config} {es : List Event} (h : undisturbed c true es = true)
    (b : Bool) : undisturbed c b es = true := by
  induction es generalizing b with
  | nil => rfl
  | cons e es ih =>
    cases e with
    | memWrite addr v => exact absurd h Bool.false_ne_true
    | action a =>
      cases a with
      | dmaReset => exact absurd h Bool.false_ne_true
      | dmaGo => exact h
      | _ => exact ih h b
    | winRead n i v =>
      rw [undisturbed_winRead] at h ⊢
      split_ifs at h ⊢
      · exact h
      · exact ih h b
    | _ => exact ih h b

/-- If `r` is a next state, what led to it from `s`, with the flag at `b`, disturbs no transfer. -/
def UndisturbedIfNext (b : Bool) (s : State) (r : Res) : Prop :=
  ∀ t, r = .next t → Undisturbed b s true t

theorem Undisturbed.next {b b' : Bool} {s t : State} (h : Undisturbed b s b' t) :
    UndisturbedIfNext b s (.next t) := by
  rintro _ ⟨⟩
  obtain ⟨hcfg, es, hes, hmay⟩ := h
  exact ⟨hcfg, es, hes, fun fs hfs => hmay fs (undisturbed_of_true hfs b')⟩

theorem UndisturbedIfNext.after {b b' : Bool} {s t : State} {r : Res}
    (g : UndisturbedIfNext b' t r) (h : Undisturbed b s b' t) : UndisturbedIfNext b s r :=
  fun u hu => (g u hu).after h

theorem UndisturbedIfNext.andThen {b b' : Bool} {s : State} {r : Res} {k : State → Res}
    (h : ∀ t, r = .next t → Undisturbed b s b' t) (g : ∀ t, UndisturbedIfNext b' t (k t)) :
    UndisturbedIfNext b s (andThen r k) := by
  intro u hu
  obtain ⟨t, ht, hk⟩ := andThen_eq_next hu
  exact (g t u hk).after (h t ht)

/-! ### Operations that leave the flag -/

section
variable (b : Bool)

theorem respond_undisturbed (ws : List Word) (s : State) : Undisturbed b s b (respond ws s) :=
  .of_event rfl rfl fun _ => id

/-- A response of a command that has just written registers. -/
theorem respond_sess_undisturbed (ws : List Word) (s : State) (r : Session) :
    Undisturbed b s b (respond ws { s with sess := r }) :=
  .of_event rfl rfl fun _ => id

theorem accept_undisturbed (f : List Word) (rest : List (List Word)) (s : State) :
    Undisturbed b s b (accept f rest s) :=
  .of_event rfl rfl fun _ => id

theorem winWrite_undisturbed (n : WinName) (i : Nat) (v : Word) (s : State) :
    Undisturbed b s b (winWrite n i v s) :=
  .of_event rfl rfl fun _ => id

/-- A register read may end a transfer, and starts none. -/
theorem winRead_undisturbed (n : WinName) (i : Nat) (s : State) :
    Undisturbed b s b (winRead n i s) := by
  refine .of_event rfl rfl fun fs hfs => ?_
  rw [undisturbed_winRead]
  split_ifs
  · cases b with
    | true => exact undisturbed_of_true hfs false
    | false => exact hfs
  · exact hfs

theorem performAccess_undisturbed (s : State) (x : Access) :
    Undisturbed b s b (performAccess s x) := by
  cases x with
  | read n i => exact winRead_undisturbed b n i s
  | write n i v => exact winWrite_undisturbed b n i v s
  | modify n i clear set =>
    exact (winWrite_undisturbed b n i _ _).after (winRead_undisturbed b n i s)

theorem performAccesses_undisturbed (xs : List Access) (s : State) :
    Undisturbed b s b (xs.foldl performAccess s) := by
  induction xs generalizing s with
  | nil => exact .refl b s
  | cons x xs ih => exact (ih _).after (performAccess_undisturbed b s x)

theorem winOpen_undisturbed (n : WinName) (phys : Word) (s : State) :
    Undisturbed b s b (winOpen n phys s) :=
  .of_event rfl rfl fun _ => id

theorem winClose_undisturbed (n : WinName) (s : State) : Undisturbed b s b (winClose n s) := by
  unfold winClose
  split
  · exact .of_event rfl rfl fun _ => id
  · exact .refl b s

theorem openWindows_undisturbed (ws : List (WinName × Word)) (s : State) :
    Undisturbed b s b (openWindows ws s).2 := by
  induction ws generalizing s with
  | nil => exact .refl b s
  | cons w ws ih =>
    obtain ⟨n, phys⟩ := w
    have hrest := (ih _).after (winOpen_undisturbed b n phys s)
    unfold openWindows
    split
    · split
      · rename_i u hu
        rwa [hu] at hrest
      · rename_i refused u hu
        rw [hu] at hrest
        exact (winClose_undisturbed b n u).after hrest
    · exact winOpen_undisturbed b n phys s

theorem mboxCall_undisturbed (m : List Word) (s : State) : Undisturbed b s b (mboxCall m s) := by
  refine ⟨rfl, _, rfl, fun fs hfs => ?_⟩
  cases mboxAnswer m s with
  | pending => exact hfs
  | failed => exact hfs
  | answered ws => exact hfs

/-! ### The release chain (42_mailbox_allocator.md R180, R181) -/

theorem finishShutdown_undisturbed (n : Option CmdError) (s : State) :
    Undisturbed b s b (finishShutdown n s) := by
  have hclose := (winClose_undisturbed b .gpio _).after <| (winClose_undisturbed b .pwm _).after <|
    (winClose_undisturbed b .cm _).after (winClose_undisturbed b .dma s)
  unfold finishShutdown
  cases n with
  | none => exact (respond_undisturbed b _ _).after (hclose.of_eq rfl rfl)
  | some e => exact (respond_undisturbed b _ _).after (hclose.of_eq rfl rfl)

theorem finishRelease_undisturbed (r : Releaser) (s : State) :
    Undisturbed b s b (finishRelease r s) := by
  cases r with
  | rollBack e => exact .of_event rfl rfl fun _ => id
  | shutdown n => exact finishShutdown_undisturbed b n s

theorem mbFree_undisturbed (h : Word) (s : State) : Undisturbed b s b (mbFree h s) := by
  rcases mbFree_cases h s with ⟨e, -⟩ | ⟨r, -, -, e⟩ <;> rw [e]
  · exact mboxCall_undisturbed b _ s
  · exact (finishRelease_undisturbed b _ _).after (mboxCall_undisturbed b _ s)

theorem mbUnlock_undisturbed (h : Word) (s : State) : Undisturbed b s b (mbUnlock h s) := by
  rcases mbUnlock_cases h s with ⟨e, -⟩ | ⟨r, -, -, e⟩ <;> rw [e]
  · exact mboxCall_undisturbed b _ s
  · exact (mbFree_undisturbed b _ _).after ((mboxCall_undisturbed b _ s).of_eq rfl rfl)

theorem startRelease_undisturbed (r : Releaser) (s : State) :
    Undisturbed b s b (startRelease r s) := by
  unfold startRelease
  split
  · exact finishRelease_undisturbed b r s
  · exact (mbFree_undisturbed b _ _).after ((Undisturbed.refl b s).of_eq rfl rfl)
  · exact (mbUnlock_undisturbed b _ _).after ((Undisturbed.refl b s).of_eq rfl rfl)
  · exact (mbUnlock_undisturbed b _ _).after (.of_event rfl rfl fun _ => id)

end

/-! ### Actions and MemoryBlock writes -/

/-- An action moves the flag as it moves INFLIGHT; a channel reset needs it clear (R287). -/
theorem perform_undisturbed {b : Bool} {a : Action} (ha : a = .dmaReset → b = false) (s : State) :
    Undisturbed b s (a.inflightAfter b) (perform a s) := by
  have hrecord : Undisturbed b s (a.inflightAfter b) (record [.action a] s) := by
    refine .of_event rfl rfl ?_
    cases a with
    | dmaReset => rw [ha rfl]; exact fun _ => id
    | _ => exact fun _ => id
  exact ((performAccesses_undisturbed _ (realise s.cfg a) _).after hrecord).of_eq rfl rfl

theorem emit_undisturbed {b : Bool} {a : Action} {s t : State} (ha : a = .dmaReset → b = false)
    (h : emit a s = .next t) : Undisturbed b s (a.inflightAfter b) t := by
  obtain ⟨rfl, -⟩ := emit_eq_next h
  exact perform_undisturbed ha s

/-- Actions without a channel reset. -/
theorem emitAll_undisturbed {b : Bool} {as : List Action} {s t : State} (ha : .dmaReset ∉ as)
    (h : emitAll as s = .next t) :
    Undisturbed b s (as.foldl (fun c a => a.inflightAfter c) b) t := by
  induction as generalizing b s with
  | nil => cases h; exact .refl b _
  | cons a as ih =>
    obtain ⟨hhead, htail⟩ := not_or.mp (List.mem_cons.not.mp ha)
    obtain ⟨u, hu, h⟩ := andThen_eq_next h
    exact (ih htail h).after (emit_undisturbed (fun e => absurd e.symm hhead) hu)

/-- The block may be written where no transfer is in flight (R286). -/
theorem memWrites_undisturbed {addr : Nat} {vs : List Word} {s t : State}
    (h : memWrites addr vs s = .next t) : Undisturbed false s false t := by
  induction vs generalizing addr s with
  | nil => cases h; exact .refl _ _
  | cons v vs ih =>
    obtain ⟨u, hu, h⟩ := andThen_eq_next h
    obtain ⟨-, rfl⟩ := memWrite_eq_next hu
    exact (ih h).after (.of_event rfl rfl fun _ => id)

/-- A disabling action of SHUTDOWN, where its window is open. -/
theorem emitIf_undisturbed {b w : Bool} {a : Action} {s t : State}
    (ha : a.inflightAfter b = b) (hr : a ≠ .dmaReset)
    (h : (if w then emit a s else .next s) = .next t) : Undisturbed b s b t := by
  split at h
  · have hemit := emit_undisturbed (b := b) (fun e => absurd e hr) h
    rwa [ha] at hemit
  · cases h; exact .refl b _

/-! ### The allocation chain (R179) -/

/-- CFGPAT fills its block with nothing in flight, and starts nothing. -/
theorem finishConfigure_undisturbed (j : CfgJob) (s : State) :
    UndisturbedIfNext false s (finishConfigure j s) :=
  .andThen (fun _ => memWrites_undisturbed) fun _ =>
    .andThen (fun _ => emitAll_undisturbed (by simp)) fun _ =>
      .andThen (fun _ => memWrites_undisturbed) fun d => (respond_sess_undisturbed false _ d _).next

theorem mapBlock_undisturbed (j : CfgJob) (s : State) :
    UndisturbedIfNext false s (mapBlock j s) := by
  unfold mapBlock
  dsimp only
  split
  · have hmap (e : Env) (v w : Word) (m : Option Word) : Undisturbed false s false
        { s with env := e, trace := s.trace ++ [.mapPhys v w m] } := .of_event rfl rfl fun _ => id
    exact ((startRelease_undisturbed false _ _).after (hmap _ _ _ _)).next
  · exact (finishConfigure_undisturbed j _).after <| .of_event rfl rfl fun _ => id

theorem afterLock_undisturbed (j : CfgJob) (a : MboxAnswer) (s : State) :
    UndisturbedIfNext false s (afterLock j a s) := by
  unfold afterLock
  split
  · exact (Undisturbed.refl false s).next
  · exact (startRelease_undisturbed false _ s).next
  split
  · exact (startRelease_undisturbed false _ s).next
  · exact (mapBlock_undisturbed j _).after ((Undisturbed.refl false s).of_eq rfl rfl)

/-- MB_LOCK goes on with the allocation only where one is in progress. -/
theorem mbLock_undisturbed {b : Bool} (h : Word) {s : State}
    (hb : ∀ j, s.seq = .locking j → b = false) : UndisturbedIfNext b s (mbLock h s) := by
  unfold mbLock
  dsimp only
  split
  · rename_i j hq
    obtain rfl := hb j hq
    exact (afterLock_undisturbed j _ _).after (mboxCall_undisturbed false _ s)
  · exact (mboxCall_undisturbed b _ s).next

theorem afterAlloc_undisturbed (j : CfgJob) (a : MboxAnswer) (s : State) :
    UndisturbedIfNext false s (afterAlloc j a s) := by
  unfold afterAlloc
  split
  · exact (Undisturbed.refl false s).next
  · exact (startRelease_undisturbed false _ s).next
  split
  · exact (startRelease_undisturbed false _ s).next
  · exact (mbLock_undisturbed _ fun _ _ => rfl).after ((Undisturbed.refl false s).of_eq rfl rfl)

theorem mbAlloc_undisturbed {b : Bool} (size align flags : Word) {s : State}
    (hb : ∀ j, s.seq = .allocating j → b = false) :
    UndisturbedIfNext b s (mbAlloc size align flags s) := by
  unfold mbAlloc
  dsimp only
  split
  · rename_i j hq
    obtain rfl := hb j hq
    exact (afterAlloc_undisturbed j _ _).after (mboxCall_undisturbed false _ s)
  · exact (mboxCall_undisturbed b _ s).next

/-! ### DmaWait and what follows it (43_dma_engine.md R194, R196) -/

/-- DmaStart resets the channel with nothing in flight, and then starts a transfer. -/
theorem dmaStart_undisturbed {address : Word} {s t : State} (h : dmaStart address s = .next t) :
    Undisturbed false s true t := by
  obtain ⟨u, hu, h⟩ := andThen_eq_next h
  exact (emitAll_undisturbed (by simp) h).after (emit_undisturbed (fun _ => rfl) hu)

/-- SEND writes the region before it starts a transfer. -/
theorem startSend_undisturbed (payload : List Byte) (s : State) :
    UndisturbedIfNext false s (startSend payload s) :=
  .andThen (fun _ => memWrites_undisturbed) fun _ =>
    .andThen (fun _ => dmaStart_undisturbed) fun c => (respond_sess_undisturbed true _ c _).next

theorem leaveSession_undisturbed (b : Bool) (n : Option CmdError) (s : State) :
    UndisturbedIfNext b s (leaveSession n s) :=
  .andThen (fun _ => emitIf_undisturbed rfl nofun) fun _ =>
    .andThen (fun _ => emitIf_undisturbed rfl nofun) fun u =>
      (startRelease_undisturbed b _ u).next

theorem afterWait_undisturbed (k : Poller) (s : State) :
    UndisturbedIfNext false s (afterWait k s) := by
  cases k with
  | wait => exact (respond_sess_undisturbed false _ s _).next
  | send payload =>
    exact (startSend_undisturbed payload _).after ((Undisturbed.refl false s).of_eq rfl rfl)
  | shutdown => exact leaveSession_undisturbed false none s

/-- After a DMA error the block is not written again, and the channel not reset. -/
theorem afterWaitError_undisturbed (b : Bool) (k : Poller) (debug : Word) (s : State) :
    UndisturbedIfNext b s (afterWaitError k debug s) := by
  cases k with
  | wait => exact (respond_undisturbed b _ s).next
  | send payload => exact (respond_undisturbed b _ s).next
  | shutdown => exact leaveSession_undisturbed b _ s

/-- A status word neither active nor in error: no transfer is in flight. -/
theorem perform_dmaReadCs_ends (b : Bool) {s : State}
    (he : s.env.nextRead &&& s.cfg.periph.dmaCsError = 0)
    (ha : s.env.nextRead &&& s.cfg.periph.dmaCsActive = 0) :
    Undisturbed b s false (perform .dmaReadCs s) := by
  refine ⟨by simp, _, perform_dmaReadCs_trace s, fun fs hfs => ?_⟩
  change undisturbed s.cfg b (.winRead _ _ _ :: fs) = true
  rwa [undisturbed_winRead, if_pos ⟨rfl, rfl, he, ha⟩]

/-- A poll goes on to SEND's writes only where the status word shows the transfer over. -/
theorem dmaPoll_undisturbed (b : Bool) (k : Poller) (s : State) :
    UndisturbedIfNext b s (dmaPoll k s) := by
  intro t h
  obtain ⟨a, ha, h⟩ := andThen_eq_next h
  obtain ⟨rfl, -⟩ := emit_eq_next ha
  have hread : Undisturbed b s b (perform .dmaReadCs s) :=
    perform_undisturbed (a := .dmaReadCs) nofun s
  dsimp only at h
  split at h
  · obtain ⟨u, hu, h⟩ := andThen_eq_next h
    have hdebug : Undisturbed b _ b u := emit_undisturbed (a := .dmaReadDebug) nofun hu
    exact (afterWaitError_undisturbed b k _ _ t h).after ((hdebug.after hread).of_eq rfl rfl)
  rename_i herror
  split at h
  · rename_i hactive
    exact (afterWait_undisturbed k _ t h).after
      ((perform_dmaReadCs_ends b (not_not.mp herror) hactive).of_eq rfl rfl)
  · cases h
    have hsleep (u : State) : Undisturbed b u b { record [.sleep] u with seq := .polling k } :=
      .of_event rfl rfl fun _ => id
    exact ((hsleep _).after hread).next _ rfl

/-! ### Commands -/

theorem execInit_undisturbed (b : Bool) (g alt ch base : Word) (s : State) :
    UndisturbedIfNext b s (execInit g alt ch base s) := by
  have hopen := openWindows_undisturbed b (initWindows s.cfg base) s
  refine Undisturbed.next (b' := b) ?_
  split
  · exact respond_undisturbed b _ s
  split
  · exact respond_undisturbed b _ s
  split
  · exact respond_undisturbed b _ s
  split
  · rename_i refused t ht
    rw [ht] at hopen
    exact (respond_undisturbed b _ _).after (hopen.of_eq rfl rfl)
  · rename_i t ht
    rw [ht] at hopen
    have hpin : Undisturbed b t b (perform (.gpioAlt g alt) t) :=
      perform_undisturbed (a := .gpioAlt g alt) nofun t
    exact (respond_sess_undisturbed b _ _ _).after (hpin.after hopen)

/-- CFGPAT is legal in Configured only, where nothing is in flight (44_session.md R211, R212). -/
theorem execCfgpat_undisturbed (n f r z o : Word) {s : State}
    (hquiet : s.sess.state ≠ .sending → s.inflight = false) :
    UndisturbedIfNext s.inflight s (execCfgpat n f r z o s) := by
  unfold execCfgpat
  split
  · exact (respond_undisturbed _ _ s).next
  rename_i hcan
  split
  · exact (respond_undisturbed _ _ s).next
  split
  · exact (respond_undisturbed _ _ s).next
  dsimp only
  split
  · exact (respond_undisturbed _ _ s).next
  · obtain ⟨hconf, -⟩ := canConfigure_iff.mp (not_not.mp hcan)
    rw [hquiet (by simp [hconf])]
    exact (mbAlloc_undisturbed _ _ _ fun _ _ => rfl).after
      ((Undisturbed.refl false s).of_eq rfl rfl)

theorem execSend_undisturbed (payload : List Byte) {s : State}
    (hquiet : s.sess.state ≠ .sending → s.inflight = false) :
    UndisturbedIfNext s.inflight s (execSend payload s) := by
  unfold execSend
  split
  · exact (respond_undisturbed _ _ s).next
  split
  · exact (respond_undisturbed _ _ s).next
  split
  · exact dmaPoll_undisturbed _ _ s
  · rename_i hs
    rw [hquiet hs]
    exact startSend_undisturbed payload s

theorem execWait_undisturbed (b : Bool) (s : State) : UndisturbedIfNext b s (execWait s) := by
  unfold execWait
  split
  · exact (respond_undisturbed b _ s).next
  split
  · exact dmaPoll_undisturbed b _ s
  · exact (respond_undisturbed b _ s).next

theorem execShutdown_undisturbed (b : Bool) (s : State) :
    UndisturbedIfNext b s (execShutdown s) := by
  unfold execShutdown
  split
  · exact (respond_undisturbed b _ s).next
  split
  · exact dmaPoll_undisturbed b _ s
  · exact leaveSession_undisturbed b none s

/-- Every instruction but DRESET, where INFLIGHT is set in Sending only and no allocation is in
progress with it. -/
theorem exec_undisturbed {i : Instr} (hi : i ≠ .dreset) {s : State}
    (hquiet : s.sess.state ≠ .sending → s.inflight = false)
    (halloc : ∀ j, s.seq = .allocating j → s.inflight = false)
    (hlock : ∀ j, s.seq = .locking j → s.inflight = false) :
    UndisturbedIfNext s.inflight s (exec i s) := by
  by_cases hq : isQuery i = true
  · obtain ⟨ws, e⟩ := exec_of_isQuery hq s
    rw [e]
    exact (respond_undisturbed _ ws s).next
  cases i with
  | init g alt ch base => exact execInit_undisturbed _ g alt ch base s
  | cfgpat n f r z o => exact execCfgpat_undisturbed n f r z o hquiet
  | send payload => exact execSend_undisturbed payload hquiet
  | wait => exact execWait_undisturbed _ s
  | shutdown => exact execShutdown_undisturbed _ s
  | dreset => exact absurd rfl hi
  | mbAlloc size align flags => exact mbAlloc_undisturbed size align flags halloc
  | mbLock h => exact mbLock_undisturbed h hlock
  | mbUnlock h => exact (mbUnlock_undisturbed _ h s).next
  | mbFree h => exact (mbFree_undisturbed _ h s).next
  | _ => exact absurd rfl hq

/-! ### Steps -/

/-- An allocation belongs to Configured, where nothing is in flight (10_state.md R31). -/
theorem Inv.quiet_of_allocating {s : State} (h : Inv s) {j : CfgJob}
    (hq : s.seq = .allocating j ∨ s.seq = .locking j) : s.inflight = false := by
  have hp := h.position
  rw [SeqOk] at hp
  have hconf : Configuring s.sess := by
    rcases hq with hq | hq <;> rw [hq] at hp <;> exact hp.2.1
  exact h.quiet (by simp [hconf.1])

theorem Inv.step_undisturbed {s : State} (hinv : Inv s)
    (hno : ∀ u, nextWork s ≠ .run .dreset u) : UndisturbedIfNext s.inflight s (step s) := by
  intro t h
  cases step_cases h with
  | reset line => simp [hinv.noReset] at line
  | @message i t line waits decoded ran =>
    refine exec_undisturbed ?_ hinv.quiet (fun _ hq => hinv.quiet_of_allocating (.inl hq))
      (fun _ hq => hinv.quiet_of_allocating (.inr hq)) t ran
    rintro rfl
    cases decodeMessage_carrier decoded
  | poll line waits polls ran => exact dmaPoll_undisturbed _ _ s t ran
  | @command f rest i t ready offered decoded ran =>
    have hi : i ≠ .dreset := by
      rintro rfl
      exact hno (accept f rest s) <| by
        simp [ready.nextWork_eq, nextFrame, ready.idle, ready.notBusy, offered, decoded]
    have hrun := exec_undisturbed (s := accept f rest s) hi hinv.quiet (by simp [ready.idle])
      (by simp [ready.idle])
    exact (hrun t ran).after (accept_undisturbed _ f rest s)
  | refusal ready offered decoded =>
    exact ((respond_undisturbed _ _ _).after (accept_undisturbed _ _ _ s)).next _ rfl
  | idle line waits => exact (Undisturbed.refl _ s).next _ rfl

/-- Settles O59: what may follow the step may follow `s` after it, and nothing at all may. -/
theorem noStepDisturbsATransfer : Obligations.NoStepDisturbsATransfer := by
  intro s t hinv h hno
  obtain ⟨-, es, hes, hmay⟩ := hinv.step_undisturbed hno t h
  exact ⟨es, hes, by simpa using hmay [] rfl⟩

end Sys2Proof.Machine
end
